-- ==== Sys2Proof/Word.lean ====
section
/-! DEFINITION. The word types of DLFC. -/

namespace Sys2Proof

/-- An unsigned integer 0..255; bit 0 is the least significant (00_scope.md section 5; PRESUMED by the spec itself,
general knowledge GK2, log entry 10). -/
abbrev Byte := BitVec 8

/-- A command word `CW`: exactly 32 bits (R45). -/
abbrev CmdWord := BitVec 32

end Sys2Proof
end

