-- ==== Sys2Proof/Syntax.lean ====
section
/-! DEFINITION. The seven operations (R47): one constructor per row of spec/opcode_table.json. -/

namespace Sys2Proof

/-- An operation with its byte operands, each an unsigned byte taken as it stands (R46). -/
inductive Instr where
  /-- `NOP` (R71). -/
  | nop
  /-- `BUILD a, c, p`: address, command code, parameter (R76). -/
  | build (a c p : Byte)
  /-- `TXPOP` (R79). -/
  | txpop
  /-- `RXPUSH b`: the byte received (R86). -/
  | rxpush (b : Byte)
  /-- `PARSE` (R89). -/
  | parse
  /-- `RXCLR` (R88). -/
  | rxclr
  /-- `TXCLR` (R80). -/
  | txclr
deriving DecidableEq, Repr

end Sys2Proof
end

