-- ==== Sys2Proof/Decode.lean ====
section
/-! DEFINITION. Decoding a command word (R45 to R50), total on every 32-bit value, and the encoder (R47, R57). -/

namespace Sys2Proof

/-- Why a command word is illegal. The block does not tell the reasons apart (R49: one effect for all). -/
inductive IllegalWord where
  /-- `op` is 0x7..0xF (R49, R50). -/
  | reservedOp
  /-- Bits 27:24 are not zero (R48). -/
  | mbzNotZero
  /-- An operand field that the operation does not use is not zero (R48). -/
  | unusedOperandNotZero
deriving DecidableEq, Repr

/-- `CW[31:28]` (R45). -/
def opField (w : CmdWord) : BitVec 4 := w.extractLsb' 28 4

/-- `CW[27:24]`, must be zero (R45, R48). -/
def mbzField (w : CmdWord) : BitVec 4 := w.extractLsb' 24 4

/-- `CW[23:16]`, byte operand 2 (R45). -/
def b2Field (w : CmdWord) : Byte := w.extractLsb' 16 8

/-- `CW[15:8]`, byte operand 1 (R45). -/
def b1Field (w : CmdWord) : Byte := w.extractLsb' 8 8

/-- `CW[7:0]`, byte operand 0 (R45). -/
def b0Field (w : CmdWord) : Byte := w.extractLsb' 0 8

/-- The operation without operands `i`, legal when all three operand fields are zero (R48). -/
def noOperand (w : CmdWord) (i : Instr) : Except IllegalWord Instr :=
  if b2Field w = 0 ∧ b1Field w = 0 ∧ b0Field w = 0 then .ok i else .error .unusedOperandNotZero

/-- `RXPUSH b`, legal when the two operand fields it does not use are zero (R47, R48). -/
def pushOperand (w : CmdWord) : Except IllegalWord Instr :=
  if b2Field w = 0 ∧ b1Field w = 0 then .ok (.rxpush (b0Field w)) else .error .unusedOperandNotZero

/-- The decoder (R47, R48, R49): exactly one operation, or illegal. A word illegal for two reasons is given the first
of: reserved `op`, `mbz`, operand field (DESIGN CHOICE, log entry 12: the effect is the same). -/
def decode (w : CmdWord) : Except IllegalWord Instr :=
  if 0x7#4 ≤ opField w then .error .reservedOp
  else if mbzField w ≠ 0 then .error .mbzNotZero
  else match opField w with
    | 0x0#4 => noOperand w .nop
    | 0x1#4 => .ok (.build (b2Field w) (b1Field w) (b0Field w))
    | 0x2#4 => noOperand w .txpop
    | 0x3#4 => pushOperand w
    | 0x4#4 => noOperand w .parse
    | 0x5#4 => noOperand w .rxclr
    | 0x6#4 => noOperand w .txclr
    | _ => .error .reservedOp

/-- The operation code (R47). -/
def Instr.opCode : Instr → BitVec 4
  | .nop => 0x0
  | .build _ _ _ => 0x1
  | .txpop => 0x2
  | .rxpush _ => 0x3
  | .parse => 0x4
  | .rxclr => 0x5
  | .txclr => 0x6

/-- The byte operands `(b2, b1, b0)` as they stand in the word, unused ones zero (R47, R57). -/
def Instr.operandBytes : Instr → Byte × Byte × Byte
  | .nop => (0, 0, 0)
  | .build a c p => (a, c, p)
  | .txpop => (0, 0, 0)
  | .rxpush b => (0, 0, b)
  | .parse => (0, 0, 0)
  | .rxclr => (0, 0, 0)
  | .txclr => (0, 0, 0)

/-- The command word `{op, 0b0000, b2, b1, b0}` (R57). -/
def assembleFields (op : BitVec 4) (b2 b1 b0 : Byte) : CmdWord := op ++ 0x0#4 ++ b2 ++ b1 ++ b0

/-- The encoder: the one command word of an operation (R47, R57). -/
def encode (i : Instr) : CmdWord :=
  assembleFields i.opCode i.operandBytes.1 i.operandBytes.2.1 i.operandBytes.2.2

/-- A row's bits as a command word: bit 0 is the least significant bit of the one 32-bit word, the bits above `nbits`
are zero (log entry 15). -/
def tableWord (nbits w : Nat) : CmdWord := BitVec.ofNat 32 (w % 2 ^ nbits)

/-- The instruction the decoder reads from an instruction of `nbits` bits whose bits are `w`, numbered as
spec/opcode_table.json numbers them; `none` where it refuses, and for a width over the 32 bits of R45. -/
def decodeTableWord (nbits w : Nat) : Option Instr :=
  if nbits ≤ 32 then
    match decode (tableWord nbits w) with
    | .ok i => some i
    | .error _ => none
  else none

end Sys2Proof
end

