-- ==== Sys2Proof/Config.lean ====
section
/-! DEFINITION. What is fixed when the block is built (the wire parameters of R2) and the free values: what no rule of
the spec fixes (the draws of R26, R103 and R160). -/

namespace Sys2Proof

/-- The wire-format parameters of R2 (decision D19), each with its default. No operation holds one of these literals.
UNVERIFIED: the literals are D0's and the spec calls them unaudited (log entry 8). -/
structure Params where
  /-- `TERM`, the terminator byte of both frames. -/
  term : Byte := 0x0D
  /-- `CK_MASK`, the checksum mask. -/
  ckMask : Byte := 0x7F
  /-- `CMD_LEN`, the command frame's length in bytes. -/
  cmdLen : Nat := 5
  /-- `RESP_LEN`, the response frame's length in bytes. -/
  respLen : Nat := 10
  /-- `HDR0`, the response header byte at offset 0. -/
  hdr0 : Byte := 0x11
  /-- `HDR1`, the response header byte at offset 1. -/
  hdr1 : Byte := 0x42
  /-- `N_DIGITS`, the number of digit bytes. -/
  nDigits : Nat := 5
  /-- `DIGIT_BASE`, the character `'0'`. PRESUMED: that it is 0x30 is general knowledge GK1 (log entry 9). -/
  digitBase : Byte := 0x30
  /-- `DP_MAX`, the largest decimal-place count; the two bits of `DP` hold 0..DP_MAX. -/
  dpMax : Nat := 3
deriving DecidableEq, Repr

/-- The parameters this DLFC is built with: the defaults of R2. -/
def Config.params : Params := {}

/-- FREE VALUE. The byte at offset `off` of `TXBUF` while nothing has been written there since the reset event number
`k` (R26, R160, U2; log entry 6). No body: nothing can be proved of it. -/
opaque Config.freeTxByte (k off : Nat) : Byte

/-- FREE VALUE. The byte at offset `off` of `RXBUF` while nothing has been written there since the reset event number
`k` (R26, R160, U2; log entry 6). -/
opaque Config.freeRxByte (k off : Nat) : Byte

/-- FREE VALUE. What `MAG` holds after an accepted frame with a byte that is no digit (R103, U1; log entry 7). `k` is
the number of bytes stored in `RXBUF` so far: a PARSE repeated on an unchanged buffer draws the same value again (R36,
R89 corner case 2), any other PARSE draws anew. `digits` are the digit bytes and `st` the status bits 2:0, all that may
reach a reading register (R101, R109). -/
opaque Config.freeMag (k : Nat) (digits : List Byte) (st : BitVec 3) : BitVec 17

/-- FREE VALUE. What `SVAL` holds after such a frame; not tied to the draw of `MAG` (R103, U1; log entry 7). -/
opaque Config.freeSval (k : Nat) (digits : List Byte) (st : BitVec 3) : BitVec 18

end Sys2Proof
end

