-- ==== Sys2Proof/Machine/Checksum.lean ====
section
/-! DEFINITION. The checksum function (R65 to R67) and its accumulator form (R69). -/

namespace Sys2Proof.Machine

/-- The exact sum of the unsigned byte values (R65). -/
def byteSum (bytes : List Byte) : Nat := (bytes.map BitVec.toNat).sum

/-- `sum7(bytes)`: the exact sum, then the mask (R65). -/
def sum7 (P : Params) (bytes : List Byte) : Byte := BitVec.ofNat 8 (byteSum bytes &&& P.ckMask.toNat)

/-- `adj(s)`: a sum equal to the terminator is moved up by exactly 1 (R66). -/
def adj (P : Params) (s : Byte) : Byte := if s = P.term then s + 1 else s

/-- `ck7(bytes) = adj(sum7(bytes))` (R67). -/
def ck7 (P : Params) (bytes : List Byte) : Byte := adj P (sum7 P bytes)

/-- The 7-bit accumulator of R69: starts at 0 and adds `byte[6:0]` of each byte modulo 128. -/
def sum7Acc (bytes : List Byte) : BitVec 7 :=
  bytes.foldl (fun acc b => acc + b.extractLsb' 0 7) 0

end Sys2Proof.Machine
end

