-- ==== Sys2Proof/Machine/Operands.lean ====
section
/-! DEFINITION. The fields of a response frame: offsets (R53), status byte (R54), digit bytes (R55, R100). -/

namespace Sys2Proof

/-! ## Offsets of the response frame (R53), from the parameters (DEDUCED, log entry 14) -/

/-- The offset of the digit number `i`, 0 the most significant (R33). -/
def Params.digitOff (_P : Params) (i : Nat) : Nat := 2 + i

/-- The offset of the status byte; 7 at the defaults. -/
def Params.statusOff (P : Params) : Nat := 2 + P.nDigits

/-- The offset of the checksum byte, also how many bytes it covers; 8 at the defaults. -/
def Params.ckOff (P : Params) : Nat := 3 + P.nDigits

/-- The offset of the terminator; 9 at the defaults. -/
def Params.termOff (P : Params) : Nat := P.respLen - 1

namespace Machine

/-- The byte at an offset of a frame. Only offsets inside the frame are ever asked for; outside it the answer is 0
(DESIGN CHOICE, log entry 16). -/
def frameByte (f : List Byte) (off : Nat) : Byte := f.getD off 0

/-! ## Status byte (R54, R104, R105) -/

/-- `st[1:0]`, the decimal-place count. -/
def statusDp (st : Byte) : BitVec 2 := st.extractLsb' 0 2

/-- `st[2]`, the sign. -/
def statusNeg (st : Byte) : Bool := st.getLsbD 2

/-- `st[2:0]`, the bits D0 gives a meaning; bits 7:3 are ignored in decoding (R54, R109). -/
def statusUsed (st : Byte) : BitVec 3 := st.extractLsb' 0 3

/-! ## Digit bytes (R55, R100) -/

/-- `is_digit(b)`. -/
def isDigit (P : Params) (b : Byte) : Bool :=
  decide (P.digitBase.toNat ≤ b.toNat) && decide (b.toNat ≤ P.digitBase.toNat + 9)

/-- `digit_of(b)`, the byte minus `'0'`; used only where `is_digit(b)`. -/
def digitOf (P : Params) (b : Byte) : Nat := b.toNat - P.digitBase.toNat

/-- The low nibble `b[3:0]`, the other conforming form of `digit_of` (R100, R110). -/
def lowNibble (b : Byte) : Nat := (b.extractLsb' 0 4).toNat

/-- The digit bytes `f[2..6]` of a response frame, most significant first (R33, R53). -/
def digitBytes (P : Params) (f : List Byte) : List Byte :=
  (List.range P.nDigits).map fun i => frameByte f (P.digitOff i)

end Machine
end Sys2Proof
end

