-- ==== Sys2Proof/Machine/State.lean ====
section
/-! DEFINITION. The architectural state of DLFC (R10), the model's own fields beside it, and the state after reset
(R26). Plain data. -/

namespace Sys2Proof.Machine

/-- A buffer's written bytes: (offset, byte) pairs, offsets strictly rising. An offset not listed has not been written
since the last reset event: its byte is unspecified (R26), a free value (log entry 6). -/
abbrev Memory := List Host.Cell

/-- What the environment may present for one step (R38): a command word on the command port, or a reset event
(R160). -/
inductive Event where
  | command (w : CmdWord)
  | reset
deriving DecidableEq, Repr

/-- The state. The first thirteen fields are R10's, in its order and with R3's widths. -/
structure State where
  /-- `TXBUF[0..4]`, one outgoing command frame (R30). -/
  txbuf : Memory
  /-- `TXPTR`, the offset of the next byte to emit; 5 when no frame is pending (R17). -/
  txptr : BitVec 3
  /-- `TXD`, the byte most recently handed to the UART transmitter (R15). -/
  txd : Byte
  /-- `RXBUF[0..9]`, the bytes received (R31). -/
  rxbuf : Memory
  /-- `RXCNT`, how many bytes `RXBUF` holds (R18). -/
  rxcnt : BitVec 4
  /-- `RESULT`, the outcome of the most recent PARSE (R22). -/
  result : BitVec 3
  /-- `MAG`, the magnitude of the last accepted reading (R11). -/
  mag : BitVec 17
  /-- `SVAL`, the same with the sign applied, two's complement (R12). -/
  sval : BitVec 18
  /-- `DP`, its decimal-place count (R13). -/
  dp : BitVec 2
  /-- `NEG`, its sign flag; true is 1, negative (R14). -/
  neg : Bool
  /-- `DIGIT_RANGE`: a digit byte of the accepted frame was no digit (R19). -/
  digitRange : Bool
  /-- `RX_OVF`: a received byte was dropped since the last RXCLR (R19). -/
  rxOvf : Bool
  /-- `ILLCMD`: an illegal command word was presented since reset (R19). -/
  illcmd : Bool
  /-- `txwire`, every byte emitted since the start of the run, oldest first: a recording, not hardware state (R21). -/
  txwire : List Byte
  /-- The model's own: how many reset events have happened, the index of the draws for unwritten bytes (log entry 6). -/
  resets : Nat
  /-- The model's own: how many bytes RXPUSH has stored, the index of the draws for `MAG` and `SVAL` (log entry 7). -/
  pushes : Nat
  /-- The model's own: what the environment will present, next first. The block never stores it (R42); it stands for
  the environment's free choice (log entry 1). -/
  pending : List Event
deriving DecidableEq, Repr

/-- No step of DLFC ends in a fault: "Nothing traps, nothing hangs" (00_scope.md section 7), every command word in
every state has a successor (R171). An illegal word is a next state with `ILLCMD` set (R148). So no reason exists. -/
inductive Fault where
deriving DecidableEq, Repr

/-- Why a step has no meaning. -/
inductive Refusal where
  /-- Raised by an arm of `exec` for an operation without a meaning yet; no arm does. Safe: the machine stops. -/
  | notModelled (mnemonic : String)
deriving DecidableEq, Repr

/-- The outcome of one step of DLFC. -/
abbrev Outcome := Host.Outcome State Fault Refusal

/-- The state right after a reset event, at the start of a run (R26, R161, R171). No byte of either buffer is written,
nothing has been emitted, and the environment's events are still to be given (log entries 3 to 6). -/
def State.reset : State where
  txbuf := []
  txptr := BitVec.ofNat 3 Config.params.cmdLen
  txd := 0x00
  rxbuf := []
  rxcnt := 0
  result := 0
  mag := 0
  sval := 0
  dp := 0
  neg := false
  digitRange := false
  rxOvf := false
  illcmd := false
  txwire := []
  resets := 0
  pushes := 0
  pending := []

end Sys2Proof.Machine
end

