-- ==== Sys2Proof/Machine/Flags.lean ====
section
/-! DEFINITION. The codes of `RESULT` (R22), the flag `DIGIT_RANGE` (R103) and the four derived outputs (R20). -/

namespace Sys2Proof.Machine

/-- `NONE`: no PARSE since reset or the last RXCLR (R22). -/
def resultNone : BitVec 3 := 0
/-- `OK`: the last PARSE accepted the frame (R22). -/
def resultOk : BitVec 3 := 1
/-- `TOO_SHORT`, D0's `FrameTooShort` (R22, R91). -/
def resultTooShort : BitVec 3 := 2
/-- `MALFORMED`, D0's `FrameMalformed` (R22, R92). -/
def resultMalformed : BitVec 3 := 3
/-- `CK_MISMATCH`, D0's `ChecksumMismatch` (R22, R93). -/
def resultCkMismatch : BitVec 3 := 4

/-- The value PARSE writes to `DIGIT_RANGE`: some digit byte of the frame is no digit (R101, R103). -/
def digitRangeOf (P : Params) (f : List Byte) : Bool := !(digitBytes P f).all (isDigit P)

/-- `RD_VALID = (RESULT == 1)` (R20). -/
def State.rdValid (s : State) : Bool := s.result == resultOk

/-- `RD_ERR = (RESULT == 2 or RESULT == 3 or RESULT == 4)` (R20). -/
def State.rdErr (s : State) : Bool :=
  s.result == resultTooShort || s.result == resultMalformed || s.result == resultCkMismatch

/-- `TX_PEND = (TXPTR < 5)` (R20). -/
def State.txPend (s : State) : Bool := decide (s.txptr.toNat < Config.params.cmdLen)

/-- `RX_FULL = (RXCNT == 10)` (R20). -/
def State.rxFull (s : State) : Bool := s.rxcnt.toNat == Config.params.respLen

end Sys2Proof.Machine
end

