-- ==== Sys2Proof/Machine/DigitDecoder.lean ====
section
/-! DEFINITION. The digit decoder (43_digit_decoder.md): an accepted frame to a reading. -/

namespace Sys2Proof.Machine

/-- The tuple `(mag, sval, dp, neg, rng)` of R101. -/
structure Reading where
  mag : BitVec 17
  sval : BitVec 18
  dp : BitVec 2
  neg : Bool
  rng : Bool
deriving DecidableEq, Repr

/-- The base-10 number of the digit bytes `f[2..6]`, weights 10000, 1000, 100, 10, 1 at the defaults (R102). -/
def magnitude (P : Params) (f : List Byte) : Nat :=
  ((List.range P.nDigits).map fun i =>
    10 ^ (P.nDigits - 1 - i) * digitOf P (frameByte f (P.digitOff i))).sum

/-- Horner's scheme for the same number (R110). -/
def magnitudeHorner (P : Params) (f : List Byte) : Nat :=
  (digitBytes P f).foldl (fun acc b => acc * 10 + digitOf P b) 0

/-- The same number from the low nibbles of the digit bytes (R110). -/
def magnitudeNibbles (P : Params) (f : List Byte) : Nat :=
  ((List.range P.nDigits).map fun i =>
    10 ^ (P.nDigits - 1 - i) * lowNibble (frameByte f (P.digitOff i))).sum

/-- `SVAL` of a magnitude and a sign: `zext_18(mag)`, or `trunc_18(0 - mag)` (R106; PRESUMED by the spec itself, GK4,
log entry 10). -/
def signed (neg : Bool) (mag : Nat) : BitVec 18 :=
  if neg then BitVec.ofInt 18 (0 - (mag : Int)) else BitVec.ofNat 18 mag

/-- `decode_reading(f)` (R101). `k` is the index of the two draws (R103). -/
def decodeReading (P : Params) (k : Nat) (f : List Byte) : Reading :=
  let st := frameByte f P.statusOff
  let rng := digitRangeOf P f
  { mag := if rng then Config.freeMag k (digitBytes P f) (statusUsed st) else BitVec.ofNat 17 (magnitude P f)
    sval := if rng then Config.freeSval k (digitBytes P f) (statusUsed st) else signed (statusNeg st) (magnitude P f)
    dp := statusDp st
    neg := statusNeg st
    rng := rng }

end Sys2Proof.Machine
end

