-- ==== Sys2Proof/Machine/Ops.lean ====
section
/-! DEFINITION. The shared operations: the byte buffers, `emit`, the two events that stand in the place of exceptions
(`raise Reject`, `raise IllegalCommand`), the reset event, and the environment's events. -/

namespace Sys2Proof.Machine

/-! ## Buffers (R24, R30, R31, R35) -/

/-- The canonical form of a buffer of `size` bytes: offsets strictly rising, each inside the buffer. -/
abbrev Memory.wf (size : Nat) (m : Memory) : Prop :=
  m.Pairwise (fun x y => x.1 < y.1) ∧ ∀ c ∈ m, c.1 < size

/-- The byte written at an offset since the last reset event, if any. -/
def Memory.byteAt : Memory → Nat → Option Byte
  | [], _ => none
  | (k, v) :: m, off => if off = k then some v else Memory.byteAt m off

/-- Writes one byte, keeping the offsets in rising order. -/
def Memory.store : Memory → Nat → Byte → Memory
  | [], off, b => [(off, b)]
  | (k, v) :: m, off, b =>
    if off < k then (off, b) :: (k, v) :: m
    else if off = k then (off, b) :: m
    else (k, v) :: Memory.store m off b

/-- Writes the bytes of a list at consecutive offsets from `off` on. -/
def Memory.storeList (m : Memory) (off : Nat) : List Byte → Memory
  | [] => m
  | b :: bs => Memory.storeList (m.store off b) (off + 1) bs

/-- `MemRead(TXBUF, off, 1)`; a byte nothing has written is a free value (R26, U2). -/
def State.txByte (s : State) (off : Nat) : Byte :=
  (s.txbuf.byteAt off).getD (Config.freeTxByte s.resets off)

/-- `MemRead(RXBUF, off, 1)`; a byte nothing has written is a free value (R26, U2). -/
def State.rxByte (s : State) (off : Nat) : Byte :=
  (s.rxbuf.byteAt off).getD (Config.freeRxByte s.resets off)

/-- The five `MemWrite(TXBUF, i, 1, f[i])` of BUILD (R76). -/
def State.writeTxFrame (s : State) (f : List Byte) : State :=
  { s with txbuf := s.txbuf.storeList 0 f }

/-- `MemWrite(RXBUF, off, 1, b)` (R86). -/
def State.writeRx (s : State) (off : Nat) (b : Byte) : State :=
  { s with rxbuf := s.rxbuf.store off b, pushes := s.pushes + 1 }

/-- `RXBUF[0..RESP_LEN-1]`, a whole response frame (R89). -/
def State.rxFrame (s : State) : List Byte := (List.range Config.params.respLen).map s.rxByte

/-- `RXBUF[0..RXCNT-1]`, the bytes now in the buffer (R89). -/
def State.rxBytes (s : State) : List Byte := (List.range s.rxcnt.toNat).map s.rxByte

/-! ## Emission and the events in the place of exceptions -/

/-- `emit(b)`: `TXD <- b`, and `b` is appended to `txwire` (00_scope.md section 6, R79). -/
def State.emit (s : State) (b : Byte) : State := { s with txd := b, txwire := s.txwire ++ [b] }

/-- `raise Reject(code)`: `RESULT <- code` and nothing else (R144). -/
def State.reject (s : State) (code : BitVec 3) : State := { s with result := code }

/-- `raise IllegalCommand`: `ILLCMD <- 1` and nothing else (R148). -/
def State.illegalCommand (s : State) : State := { s with illcmd := true }

/-- The reset event (R160): every register at R26's value, the buffers' bytes drawn anew, `txwire` and what the
environment still presents kept. -/
def State.resetEvent (s : State) : State :=
  { State.reset with txwire := s.txwire, resets := s.resets + 1, pushes := s.pushes, pending := s.pending }

/-! ## The environment's events -/

/-- The state once the environment's next event has been taken. -/
def State.withPending (s : State) (rest : List Event) : State := { s with pending := rest }

/-- An illegal command word's whole step (R49). -/
def takeIllegal (s : State) : Outcome := .next s.illegalCommand

/-- A reset event's whole step (R160). -/
def takeReset (s : State) : Outcome := .next s.resetEvent

/-- Nothing is presented: nothing changes, since only operations and the reset event change state (R10). DEDUCED, log
entry 2. -/
def takeNothing (s : State) : Outcome := .next s

end Sys2Proof.Machine
end

