-- ==== Sys2Proof/Machine/FrameDecoder.lean ====
section
/-! DEFINITION. The frame decoder (42_decoder.md): RXPUSH, RXCLR, PARSE. -/

namespace Sys2Proof.Machine

/-- The four outcomes of `parse_response` (R85). -/
inductive ParseOutcome where
  | tooShort
  | malformed
  | ckMismatch
  | ok (r : Reading)
deriving DecidableEq, Repr

/-! ## The three checks, on the bytes of a whole frame -/

/-- The header or the terminator is wrong, all eight bits compared (R92). -/
def badHeader (P : Params) (f : List Byte) : Bool :=
  frameByte f 0 != P.hdr0 || frameByte f 1 != P.hdr1 || frameByte f P.termOff != P.term

/-- The checksum of offsets 0..7 differs from the byte received at offset 8, all eight bits compared (R93). -/
def badChecksum (P : Params) (f : List Byte) : Bool :=
  ck7 P (f.take P.ckOff) != frameByte f P.ckOff

/-- `parse_response(bytes)`, total on every byte list; of more than ten bytes the first ten are judged (R85, R95).
`k` is the index of the draws of R103. -/
def parseResponse (P : Params) (k : Nat) (bytes : List Byte) : ParseOutcome :=
  if bytes.length < P.respLen then .tooShort
  else
    let f := bytes.take P.respLen
    if badHeader P f then .malformed
    else if badChecksum P f then .ckMismatch
    else .ok (decodeReading P k f)

/-! ## The operations -/

/-- `RXPUSH b`: stores the byte at `RXCNT`, or, the buffer full, drops it and sets `RX_OVF` (R86, R87). -/
def execRxpush (b : Byte) (s : State) : Outcome :=
  if s.rxcnt.toNat < Config.params.respLen then
    .next { s.writeRx s.rxcnt.toNat b with rxcnt := s.rxcnt + 1 }
  else .next { s with rxOvf := true }

/-- `RXCLR`: `RXCNT`, `RX_OVF` and `RESULT` to 0; buffer bytes and reading registers stay (R88). -/
def execRxclr (s : State) : Outcome :=
  .next { s with rxcnt := 0, rxOvf := false, result := resultNone }

/-- Acceptance: the five reading registers, then `RESULT <- 1` (R90). -/
def State.accept (s : State) (r : Reading) : State :=
  { s with mag := r.mag, sval := r.sval, dp := r.dp, neg := r.neg, digitRange := r.rng, result := resultOk }

/-- `PARSE`: length, header and terminator, checksum, in that order; the first failure decides (R89, R146). -/
def execParse (s : State) : Outcome :=
  if s.rxcnt.toNat < Config.params.respLen then .next (s.reject resultTooShort)
  else if badHeader Config.params s.rxFrame then .next (s.reject resultMalformed)
  else if badChecksum Config.params s.rxFrame then .next (s.reject resultCkMismatch)
  else .next (s.accept (decodeReading Config.params s.pushes s.rxFrame))

/-- What PARSE records of an outcome of `parse_response` (R89, R144). -/
def State.record (s : State) : ParseOutcome → State
  | .tooShort => s.reject resultTooShort
  | .malformed => s.reject resultMalformed
  | .ckMismatch => s.reject resultCkMismatch
  | .ok r => s.accept r

end Sys2Proof.Machine
end

