-- ==== Sys2Proof/Machine/FrameEncoder.lean ====
section
/-! DEFINITION. The frame encoder (41_encoder.md): BUILD, TXPOP, TXCLR. -/

namespace Sys2Proof.Machine

/-- `build_command(a, c, p) = [a, c, p, ck7([a, c, p]), TERM]`, total (R75). -/
def buildCommand (P : Params) (a c p : Byte) : List Byte := [a, c, p, ck7 P [a, c, p], P.term]

/-- `BUILD a, c, p`: the frame goes into `TXBUF`, over a pending one too, and `TXPTR <- 0` (R76). -/
def execBuild (a c p : Byte) (s : State) : Outcome :=
  .next { s.writeTxFrame (buildCommand Config.params a c p) with txptr := 0 }

/-- `TXPOP`: emits the byte at `TXPTR` and moves on; with no frame pending, nothing (R79). -/
def execTxpop (s : State) : Outcome :=
  if s.txptr.toNat < Config.params.cmdLen then
    .next { s.emit (s.txByte s.txptr.toNat) with txptr := s.txptr + 1 }
  else .next s

/-- `TXCLR`: `TXPTR <- 5` and nothing else (R80). -/
def execTxclr (s : State) : Outcome := .next { s with txptr := BitVec.ofNat 3 Config.params.cmdLen }

end Sys2Proof.Machine
end

