-- ==== Sys2Proof/Machine/Nop.lean ====
section
/-! DEFINITION. NOP (40_checksum_and_nop.md section 3). -/

namespace Sys2Proof.Machine

/-- `NOP` writes no state, emits nothing, sets no flag, raises nothing (R71). -/
def execNop (s : State) : Outcome := .next s

end Sys2Proof.Machine
end

