-- ==== Sys2Proof/Machine/Dispatch.lean ====
section
/-! DEFINITION. One arm per operation. -/

namespace Sys2Proof.Machine

/-- The whole effect of one operation (R38, R47). -/
def exec (i : Instr) (s : State) : Host.Outcome State Fault Refusal :=
  match i with
  | .nop => Sys2Proof.Machine.execNop s
  | .build a c p => Sys2Proof.Machine.execBuild a c p s
  | .txpop => Sys2Proof.Machine.execTxpop s
  | .rxpush b => Sys2Proof.Machine.execRxpush b s
  | .parse => Sys2Proof.Machine.execParse s
  | .rxclr => Sys2Proof.Machine.execRxclr s
  | .txclr => Sys2Proof.Machine.execTxclr s

end Sys2Proof.Machine
end

