-- ==== Sys2Proof/Machine/Step.lean ====
section
/-! DEFINITION. One step (R38): the environment's next command word or reset event, executed completely. -/

namespace Sys2Proof.Machine

/-- One step. A legal word is executed, an illegal one is IllegalCommand (R49), a reset event resets (R160); with
nothing presented nothing changes (R10). -/
def step (s : State) : Host.Outcome State Fault Refusal :=
  match s.pending with
  | [] => takeNothing s
  | .reset :: rest => takeReset (s.withPending rest)
  | .command w :: rest =>
    match decode w with
    | .ok i => exec i (s.withPending rest)
    | .error _ => takeIllegal (s.withPending rest)

/-- The state in which the environment presents the word `w` next, before what it was to present (log entry 3). -/
def State.withFetchWord (s : State) (nbits w : Nat) : State :=
  s.withPending (.command (tableWord nbits w) :: s.pending)

end Sys2Proof.Machine
end

