-- ==== Sys2Proof/Assembly.lean ====
section
/-! DEFINITION. Source lines of the assembler syntax of R57 and the pseudo-operations of R58 (decision D24), before
any range check: an operand is the number the source wrote. What a line assembles to is Machine/Assembler.lean. -/

namespace Sys2Proof

/-- One source line. An operand is written `0x..`, in decimal or as a quoted character (R57): here its number. -/
inductive AsmLine where
  | nop
  | build (a c p : Nat)
  | txpop
  | rxpush (b : Nat)
  | parse
  | rxclr
  | txclr
  /-- `READ a`, the read command of D0 (R58). -/
  | read (a : Nat)
  /-- `WAKE a, p`; the parameter is an explicit operand because D0 does not give it (R58, N8). -/
  | wake (a p : Nat)
  /-- `SEND`, a whole pending frame (R58). -/
  | send
  /-- `RECV b0, ..., bn` (R58). -/
  | recv (bs : List Nat)
  /-- `RECVFRAME b0, ..., b9` (R58). -/
  | recvFrame (bs : List Nat)
  /-- `.word w`, a raw command word, legal or not (95_test_vectors.md P4). -/
  | word (w : Nat)
deriving DecidableEq, Repr

end Sys2Proof
end

