-- ==== Sys2Proof/Machine/Assembler.lean ====
section
/-! DEFINITION. The assembler (R57), the pseudo-operations (R58) and the host's operation sequences (R132 to R134,
context: they bind the host, never DLFC). -/

namespace Sys2Proof.Machine

/-- A source operand as a byte; its number where it fits a byte (R57). -/
def asmByte (n : Nat) : Byte := BitVec.ofNat 8 n

/-- `BUILD` as R57 assembles it: address, command code and parameter in `b2`, `b1`, `b0`. -/
def asmBuild (a c p : Nat) : CmdWord := assembleFields 0x1 (asmByte a) (asmByte c) (asmByte p)

/-- `RXPUSH` as R57 assembles it. -/
def asmPush (b : Nat) : CmdWord := assembleFields 0x3 0 0 (asmByte b)

/-- An operation without operands as R57 assembles it. -/
def asmPlain (op : BitVec 4) : CmdWord := assembleFields op 0 0 0

/-- The command words of a source line (R57, R58). -/
def assemble : AsmLine → List CmdWord
  | .nop => [asmPlain 0x0]
  | .build a c p => [asmBuild a c p]
  | .txpop => [asmPlain 0x2]
  | .rxpush b => [asmPush b]
  | .parse => [asmPlain 0x4]
  | .rxclr => [asmPlain 0x5]
  | .txclr => [asmPlain 0x6]
  | .read a => [asmBuild a 0x42 0x3F]
  | .wake a p => [asmBuild a 0x44 p]
  | .send => List.replicate 5 (asmPlain 0x2)
  | .recv bs => bs.map asmPush
  | .recvFrame bs => asmPlain 0x5 :: bs.map asmPush
  | .word w => [BitVec.ofNat 32 w]

/-- A source text as the events it has the environment present. -/
def asmEvents (lines : List AsmLine) : List Event := (lines.flatMap assemble).map .command

/-- One polling tick: discard leftovers, send the read command, push what arrives, parse (R132). -/
def pollTick (addr : Byte) (rs : List Byte) : List AsmLine :=
  [.rxclr, .read addr.toNat, .send] ++ rs.map (fun b => .rxpush b.toNat) ++ [.parse]

/-- The probe: the wake or read command, whose code and parameter are the host's, then what arrives; D0 asks for no
PARSE (R133). -/
def probe (addr c p : Byte) (rs : List Byte) : List AsmLine :=
  [.rxclr, .build addr.toNat c.toNat p.toNat, .send] ++ rs.map (fun b => .rxpush b.toNat)

/-- Stop or fault of the host: drop a pending frame and empty the receive side (R134). -/
def stopSequence : List AsmLine := [.txclr, .rxclr]

end Sys2Proof.Machine
end

