-- ==== Sys2Proof/Machine/Ports.lean ====
section
/-! DEFINITION. The output ports (R10, R20): what the host sees, always, without side effect. -/

namespace Sys2Proof.Machine

/-- The output ports: one of the same name for every item of R10, and the four derived outputs of R20. -/
structure Ports where
  txbuf : List Byte
  txptr : BitVec 3
  txd : Byte
  rxbuf : List Byte
  rxcnt : BitVec 4
  result : BitVec 3
  mag : BitVec 17
  sval : BitVec 18
  dp : BitVec 2
  neg : Bool
  digitRange : Bool
  rxOvf : Bool
  illcmd : Bool
  rdValid : Bool
  rdErr : Bool
  txPend : Bool
  rxFull : Bool
deriving DecidableEq, Repr

/-- The ports in a state: exactly the state (R39 d). -/
def State.ports (s : State) : Ports where
  txbuf := (List.range Config.params.cmdLen).map s.txByte
  txptr := s.txptr
  txd := s.txd
  rxbuf := s.rxFrame
  rxcnt := s.rxcnt
  result := s.result
  mag := s.mag
  sval := s.sval
  dp := s.dp
  neg := s.neg
  digitRange := s.digitRange
  rxOvf := s.rxOvf
  illcmd := s.illcmd
  rdValid := s.rdValid
  rdErr := s.rdErr
  txPend := s.txPend
  rxFull := s.rxFull

end Sys2Proof.Machine
end

