-- ==== Sys2Proof/Safety.lean ====
section
/-! DEFINITION. What counts as a good state and a good run, in the terms the statements use. -/

namespace Sys2Proof.Machine

/-- The invariant of R27, for every state a run can reach, and the canonical form of the two buffers. -/
structure State.Inv (s : State) : Prop where
  /-- `TXBUF` is in canonical form. -/
  txbuf_wf : Memory.wf 5 s.txbuf
  /-- `RXBUF` is in canonical form. -/
  rxbuf_wf : Memory.wf 10 s.rxbuf
  /-- `TXPTR <= 5`. -/
  txptr_le : s.txptr.toNat ≤ 5
  /-- `RXCNT <= 10`. -/
  rxcnt_le : s.rxcnt.toNat ≤ 10
  /-- `RESULT <= 4`. -/
  result_le : s.result.toNat ≤ 4
  /-- If `RESULT == 1` and `DIGIT_RANGE == 0` then `MAG <= 99999` and `SVAL` is `MAG` with the sign applied. -/
  reading : s.result = 1 → s.digitRange = false →
    s.mag.toNat ≤ 99999 ∧ s.sval = if s.neg then -(s.mag.setWidth 18) else s.mag.setWidth 18
  /-- `RXBUF[i]` for `i < RXCNT` has been written since the last reset event. -/
  rx_written : ∀ i < s.rxcnt.toNat, (s.rxbuf.byteAt i).isSome
  /-- If `TXPTR < 5`, all of `TXBUF[0..4]` were written by one BUILD since the last reset event. -/
  tx_built : s.txptr.toNat < 5 → ∃ a c p : Byte, ∀ i < 5,
    s.txbuf.byteAt i = (buildCommand Config.params a c p)[i]?

/-- The host has presented no illegal word since reset: the premise R148 lets a claim take. -/
def State.clean (s : State) : Bool := !s.illcmd

/-- The number an accepted reading stands for, `(-1)^NEG * MAG / 10^DP`, where `DIGIT_RANGE == 0`; DLFC does not
compute it (R107). -/
def State.value (s : State) : Option ℚ :=
  if s.digitRange then none
  else some ((-1) ^ s.neg.toNat * s.mag.toNat / 10 ^ s.dp.toNat)

/-- Two states alike in everything but the draws of unwritten buffer bytes. -/
def State.sameButUnwritten (s t : State) : Prop := t = { s with resets := t.resets }

/-- The operation a pending event is, if it is a legal command word. -/
def Event.decoded : Event → Option Instr
  | .command w =>
    match decode w with
    | .ok i => some i
    | .error _ => none
  | .reset => none

/-- The byte a pending event hands to RXPUSH, if it is one. -/
def Event.pushed (e : Event) : Option Byte :=
  match e.decoded with
  | some (.rxpush b) => some b
  | _ => none

/-- The rows (match, mask) of R47: a command word `w` selects a row exactly when `w & mask == match`. -/
def opRows : List (CmdWord × CmdWord) :=
  [(0x00000000, 0xFFFFFFFF), (0x10000000, 0xFF000000), (0x20000000, 0xFFFFFFFF), (0x30000000, 0xFFFFFF00),
    (0x40000000, 0xFFFFFFFF), (0x50000000, 0xFFFFFFFF), (0x60000000, 0xFFFFFFFF)]

/-- The registers a PARSE ending in this outcome of `parse_response` leaves (R22, R89, R90). -/
def State.shows (s : State) : ParseOutcome → Prop
  | .tooShort => s.result = 2
  | .malformed => s.result = 3
  | .ckMismatch => s.result = 4
  | .ok r => s.result = 1 ∧ s.mag = r.mag ∧ s.sval = r.sval ∧ s.dp = r.dp ∧ s.neg = r.neg ∧ s.digitRange = r.rng

end Sys2Proof.Machine
end

