-- ==== Sys2Proof/WellFormed.lean ====
section
/-! DEFINITION. What makes an instruction, an assembler line and a parameter record well formed. -/

namespace Sys2Proof

/-- Every operation is well formed: its operands are bytes by their type, and R46, R75 and R86 admit every byte
("no input is rejected"). Written by constructor, so that a new one must say its own check. -/
def Instr.wellFormed : Instr → Bool
  | .nop => true
  | .build _ _ _ => true
  | .txpop => true
  | .rxpush _ => true
  | .parse => true
  | .rxclr => true
  | .txclr => true

/-- The operand fits a byte field (R46, R57). -/
def fitsByte (n : Nat) : Bool := decide (n < 2 ^ 8)

/-- A source line is well formed when each operand is a byte (R57), `RECV` lists at least the byte `b0` and
`RECVFRAME` lists exactly the ten bytes `b0` to `b9` (R58), and a raw word has 32 bits (R45). -/
def AsmLine.wellFormed : AsmLine → Bool
  | .nop => true
  | .build a c p => fitsByte a && fitsByte c && fitsByte p
  | .txpop => true
  | .rxpush b => fitsByte b
  | .parse => true
  | .rxclr => true
  | .txclr => true
  | .read a => fitsByte a
  | .wake a p => fitsByte a && fitsByte p
  | .send => true
  | .recv bs => !bs.isEmpty && bs.all fitsByte
  | .recvFrame bs => decide (bs.length = 10) && bs.all fitsByte
  | .word w => decide (w < 2 ^ 32)

/-- A parameter record is well formed when the frames have the fields of R51 and R53 and the registers of R3, whose
widths are derived from the defaults, hold their ranges: a command frame is three operands, a checksum and a
terminator; a response frame is two header bytes, the digits, status, checksum and terminator and its length fits
`RXCNT`; the magnitude fits `MAG`; the count fits `DP`; the checksum mask keeps seven bits; ten digit characters
follow `DIGIT_BASE`. -/
def Params.wellFormed (P : Params) : Bool :=
  decide (P.cmdLen = 5) && decide (P.respLen = P.nDigits + 5) && decide (P.respLen < 2 ^ 4) &&
    decide (10 ^ P.nDigits ≤ 2 ^ 17) && decide (P.dpMax < 2 ^ 2) && decide (P.ckMask.toNat < 2 ^ 7) &&
    decide (P.digitBase.toNat + 9 < 2 ^ 8)

end Sys2Proof
end

