-- ==== Sys2Proof/Certificates/Slice0/Obligations.lean ====
section
/-! DEFINITION. The statements for the provers. Numbers are written out as the spec writes them; `Config.params` holds
the same numbers as the parameters' defaults (R2). A statement about a free value holds whatever the value is. -/

open Sys2Proof Sys2Proof.Machine

/-! ## Encodings (30_encoding.md) -/

/-- R47. A word selects a row of the operation map exactly when `(w & mask) == match`, it is then that row's operation
with that row's operand fields, and no word selects two rows. -/
def Obligations.OperationMapRowsSelectOperations : Prop :=
  (∀ w : CmdWord,
    (w &&& 0xFFFFFFFF#32 = 0x00000000#32 ↔ decode w = .ok .nop) ∧
    (w &&& 0xFF000000#32 = 0x10000000#32 ↔
      decode w = .ok (.build (w.extractLsb' 16 8) (w.extractLsb' 8 8) (w.extractLsb' 0 8))) ∧
    (w &&& 0xFFFFFFFF#32 = 0x20000000#32 ↔ decode w = .ok .txpop) ∧
    (w &&& 0xFFFFFF00#32 = 0x30000000#32 ↔ decode w = .ok (.rxpush (w.extractLsb' 0 8))) ∧
    (w &&& 0xFFFFFFFF#32 = 0x40000000#32 ↔ decode w = .ok .parse) ∧
    (w &&& 0xFFFFFFFF#32 = 0x50000000#32 ↔ decode w = .ok .rxclr) ∧
    (w &&& 0xFFFFFFFF#32 = 0x60000000#32 ↔ decode w = .ok .txclr)) ∧
  ∀ w : CmdWord, opRows.Pairwise fun x y => ¬(w &&& x.2 = x.1 ∧ w &&& y.2 = y.1)

/-- R48. A word is legal exactly when `op` is one of the seven codes, `mbz` is zero and the operand bits the operation
does not use are zero: bits 23:0 in NOP, TXPOP, PARSE, RXCLR, TXCLR, bits 23:8 in RXPUSH. -/
def Obligations.LegalWordsHaveZeroUnusedFields : Prop :=
  ∀ w : CmdWord, (∃ i, decode w = .ok i) ↔
    (w.extractLsb' 28 4).toNat ≤ 6 ∧ w.extractLsb' 24 4 = 0 ∧
    ((w.extractLsb' 28 4).toNat ∈ [0, 2, 4, 5, 6] → w.extractLsb' 0 24 = 0) ∧
    ((w.extractLsb' 28 4).toNat = 3 → w.extractLsb' 8 16 = 0)

/-- R49, R148. A word that selects no row: its whole step is `ILLCMD <- 1`. No operation clears `ILLCMD`, every
operation has the same effect whether it is set or not, and a reset event clears it. -/
def Obligations.IllegalWordSetsIllcmdOnly : Prop :=
  (∀ (w : CmdWord) (s : State) (rest : List Event), s.pending = .command w :: rest →
    (∀ r ∈ opRows, w &&& r.2 ≠ r.1) → step s = .next { s with pending := rest, illcmd := true }) ∧
  (∀ (i : Instr) (s : State), ∃ t : State, exec i s = .next t ∧ t.illcmd = s.illcmd ∧
    ∀ v : Bool, exec i { s with illcmd := v } = .next { t with illcmd := v }) ∧
  (∀ (s : State) (rest : List Event), s.pending = .reset :: rest → ∃ t : State, step s = .next t ∧ t.illcmd = false)

/-- Every operation decodes from the word it is encoded as, for every operand. -/
def Obligations.DecodeOfEncodeIsTheOperation : Prop :=
  ∀ i : Instr, i.wellFormed = true → decode (encode i) = .ok i

/-- Every legal word is the one word of its operation: no bit of it is dropped. -/
def Obligations.EncodeOfDecodeIsTheWord : Prop :=
  ∀ (w : CmdWord) (i : Instr), decode w = .ok i → encode i = w

/-- Words written out from R45 and R47, one for each operation, and three illegal ones. -/
def Obligations.SampleWordsDecode : Prop :=
  decode 0b00000000000000000000000000000000#32 = .ok .nop ∧
  decode 0b00010000000000010100001000111111#32 = .ok (.build 0x01 0x42 0x3F) ∧
  decode 0b00100000000000000000000000000000#32 = .ok .txpop ∧
  decode 0b00110000000000000000000000110101#32 = .ok (.rxpush 0x35) ∧
  decode 0b01000000000000000000000000000000#32 = .ok .parse ∧
  decode 0b01010000000000000000000000000000#32 = .ok .rxclr ∧
  decode 0b01100000000000000000000000000000#32 = .ok .txclr ∧
  decode 0b01110000000000000000000000000000#32 = .error .reservedOp ∧
  decode 0b00010001000000010100001000111111#32 = .error .mbzNotZero ∧
  decode 0b00110000000000000000000100001101#32 = .error .unusedOperandNotZero

/-- R58, R57. Each pseudo-operation assembles to the words of its expansion (R58), and each plain line to the one word
of its operation, operands in their fields and unused fields zero (R57), for all byte operands. A word is named by what
it decodes to; a source operand is the number it is written as (log entry 18). -/
def Obligations.AssembledLinesDecodeToTheirExpansions : Prop :=
  (∀ a c p : Byte,
    (assemble (.build a.toNat c.toNat p.toNat)).map decode = [.ok (.build a c p)] ∧
    (assemble (.rxpush a.toNat)).map decode = [.ok (.rxpush a)] ∧
    (assemble (.read a.toNat)).map decode = [.ok (.build a 0x42 0x3F)] ∧
    (assemble (.wake a.toNat p.toNat)).map decode = [.ok (.build a 0x44 p)]) ∧
  (∀ bs : List Byte,
    (assemble (.recv (bs.map BitVec.toNat))).map decode = bs.map (fun b => .ok (.rxpush b)) ∧
    (assemble (.recvFrame (bs.map BitVec.toNat))).map decode = .ok .rxclr :: bs.map (fun b => .ok (.rxpush b))) ∧
  (assemble .send).map decode = List.replicate 5 (.ok .txpop) ∧
  (assemble .nop).map decode = [.ok .nop] ∧ (assemble .txpop).map decode = [.ok .txpop] ∧
  (assemble .parse).map decode = [.ok .parse] ∧ (assemble .rxclr).map decode = [.ok .rxclr] ∧
  (assemble .txclr).map decode = [.ok .txclr]

/-! ## Reset and the step -/

/-- R26. The state after the reset event and its derived outputs. Nothing is said of the buffers' bytes, which are
unspecified. -/
def Obligations.ResetLeavesTheValuesOfTheSpec : Prop :=
  let s := State.reset
  s.txptr = 5 ∧ s.txd = 0x00 ∧ s.rxcnt = 0 ∧ s.result = 0 ∧ s.mag = 0 ∧ s.sval = 0 ∧ s.dp = 0 ∧ s.neg = false ∧
  s.digitRange = false ∧ s.rxOvf = false ∧ s.illcmd = false ∧
  s.rdValid = false ∧ s.rdErr = false ∧ s.txPend = false ∧ s.rxFull = false

/-- R160. A reset event, from any state: every register at its reset value, `txwire` not erased, and what the
environment presents next still to come. Nothing is said of the buffers' bytes, which become unspecified. -/
def Obligations.ResetEventFromAnyState : Prop :=
  ∀ (s : State) (rest : List Event), s.pending = .reset :: rest →
    ∃ t : State, step s = .next t ∧
      t.txptr = 5 ∧ t.txd = 0x00 ∧ t.rxcnt = 0 ∧ t.result = 0 ∧ t.mag = 0 ∧ t.sval = 0 ∧ t.dp = 0 ∧ t.neg = false ∧
      t.digitRange = false ∧ t.rxOvf = false ∧ t.illcmd = false ∧ t.txwire = s.txwire ∧ t.pending = rest

/-- The model's own form of "unspecified" (log entry 6, DESIGN CHOICE): a reset event forgets every buffer byte, and
every offset then reads as a free value of that reset event. -/
def Obligations.ResetEventForgetsTheBuffers : Prop :=
  ∀ (s : State) (rest : List Event), s.pending = .reset :: rest →
    ∃ t : State, step s = .next t ∧
      ∀ off, t.txbuf.byteAt off = none ∧ t.rxbuf.byteAt off = none ∧
        t.txByte off = Config.freeTxByte (s.resets + 1) off ∧ t.rxByte off = Config.freeRxByte (s.resets + 1) off

/-- A step with a legal command word presented runs the decoded operation, with the word taken from what is pending and
nothing else added. -/
def Obligations.StepRunsTheDecodedOperation : Prop :=
  ∀ (s : State) (w : CmdWord) (rest : List Event) (i : Instr), s.pending = .command w :: rest →
    decode w = .ok i → step s = exec i { s with pending := rest }

/-- In every state every step has a successor: no halt, no stuck state, no hang. (A step with nothing presented is the
model's own, log entry 2.) -/
def Obligations.EveryStepHasASuccessor : Prop := ∀ s : State, ∃ t : State, step s = .next t

/-! ## NOP and the checksum (40_checksum_and_nop.md) -/

/-- R71. NOP is the word 0 and leaves every state; a word with `op == 0` and any other bit set is illegal. -/
def Obligations.NopLeavesTheState : Prop :=
  (∀ s : State, exec .nop s = .next s) ∧
  (∀ w : CmdWord, decode w = .ok .nop ↔ w = 0x00000000) ∧
  (∀ w : CmdWord, w.extractLsb' 28 4 = 0 → w ≠ 0 → ∀ i, decode w ≠ .ok i)

/-- R65. `sum7` is the exact sum of the unsigned byte values, its low seven bits kept; the empty list gives 0; bit 7 of
an input byte has no effect. -/
def Obligations.Sum7IsTheExactSumModulo128 : Prop :=
  (∀ bs : List Byte, (sum7 Config.params bs).toNat = (bs.map BitVec.toNat).sum % 128 ∧
    (bs.map BitVec.toNat).sum ≤ 255 * bs.length) ∧
  sum7 Config.params [] = 0 ∧
  (∀ (pre post : List Byte) (b : Byte),
    sum7 Config.params (pre ++ (b ^^^ 0x80) :: post) = sum7 Config.params (pre ++ b :: post))

/-- R66, R67. `adj` moves 0x0D to 0x0E and nothing else (with any parameters: `TERM` by exactly 1), `ck7` is `adj` of
`sum7`, and the spec's two examples. -/
def Obligations.Ck7AdjustsTheTerminatorValue : Prop :=
  (∀ P : Params, adj P P.term = P.term + 1 ∧ ∀ s : Byte, s ≠ P.term → adj P s = s) ∧
  adj Config.params 0x0D = 0x0E ∧ (∀ s : Byte, s ≠ 0x0D → adj Config.params s = s) ∧
  (∀ bs : List Byte, ck7 Config.params bs = adj Config.params (sum7 Config.params bs)) ∧
  ck7 Config.params [0x01, 0x42, 0x3F] = 0x02 ∧ ck7 Config.params [0x0C, 0x42, 0x3F] = 0x0E

/-- R68. `ck7` is in 0x00..0x7F, never 0x0D, and does not depend on the order of the bytes; with any parameters it is
never the terminator. -/
def Obligations.Ck7RangeAndOrderIndependence : Prop :=
  (∀ bs : List Byte, (ck7 Config.params bs).toNat ≤ 0x7F ∧ ck7 Config.params bs ≠ 0x0D) ∧
  (∀ bs bs' : List Byte, bs.Perm bs' → ck7 Config.params bs = ck7 Config.params bs') ∧
  (∀ (P : Params) (bs : List Byte), ck7 P bs ≠ P.term)

/-- R69 (which the spec marks as derived from R65). The 7-bit accumulator form equals `sum7` on all inputs, and the
identity it rests on. -/
def Obligations.Sum7EqualsTheAccumulatorForm : Prop :=
  (∀ bs : List Byte, (sum7Acc bs).setWidth 8 = sum7 Config.params bs) ∧
  (∀ x y : Nat, (x + y) &&& 0x7F = ((x &&& 0x7F) + (y &&& 0x7F)) &&& 0x7F)

/-- R70 (which the spec marks as derived). Changing exactly one byte leaves `ck7` the same exactly when the difference
is +128 or -128, or the masked sum moves between 0x0D and 0x0E. -/
def Obligations.SingleByteChangeOfCk7 : Prop :=
  ∀ (pre post : List Byte) (b b' : Byte), b ≠ b' →
    let old := pre ++ b :: post
    let new := pre ++ b' :: post
    (ck7 Config.params new = ck7 Config.params old ↔
      ((b'.toNat : Int) - b.toNat = 128 ∨ (b'.toNat : Int) - b.toNat = -128) ∨
      (sum7 Config.params old = 0x0D ∧ sum7 Config.params new = 0x0E) ∨
      (sum7 Config.params old = 0x0E ∧ sum7 Config.params new = 0x0D))

/-! ## The frame encoder (41_encoder.md) -/

/-- R75, R76. BUILD from any state, for any three bytes: the frame `[a, c, p, ck7, 0x0D]` is in `TXBUF`, `TXPTR` is 0,
and nothing else changes; its words are those with bits 31:24 equal to 0x10. -/
def Obligations.BuildStoresTheCommandFrame : Prop :=
  (∀ (a c p : Byte) (s : State), ∃ t : State, exec (.build a c p) s = .next t ∧
    (List.range 5).map t.txByte = [a, c, p, ck7 Config.params [a, c, p], 0x0D] ∧
    t = { s with txbuf := t.txbuf, txptr := 0 } ∧
    ∀ off, 5 ≤ off → t.txByte off = s.txByte off) ∧
  (∀ a c p : Byte, buildCommand Config.params a c p = [a, c, p, ck7 Config.params [a, c, p], 0x0D]) ∧
  (∀ w : CmdWord, w.extractLsb' 24 8 = 0x10 ↔
    decode w = .ok (.build (w.extractLsb' 16 8) (w.extractLsb' 8 8) (w.extractLsb' 0 8)))

/-- R77 (which the spec marks as derived). After BUILD the terminator is in place, the checksum byte is in 0x00..0x7F,
not the terminator, and the checksum of the three bytes before it; the terminator value can still occur at offsets 0,
1 and 2. -/
def Obligations.BuiltFrameHasItsChecksumAndTerminator : Prop :=
  (∀ (a c p : Byte) (s t : State), exec (.build a c p) s = .next t →
    t.txByte 4 = 0x0D ∧ (t.txByte 3).toNat ≤ 0x7F ∧ t.txByte 3 ≠ 0x0D ∧
    t.txByte 3 = ck7 Config.params [t.txByte 0, t.txByte 1, t.txByte 2]) ∧
  (∀ off < 3, ∃ (a c p : Byte), ∀ s t : State, exec (.build a c p) s = .next t → t.txByte off = 0x0D)

/-- R79. TXPOP with a frame pending emits the byte at `TXPTR` and adds 1 to `TXPTR`; otherwise it changes nothing;
nothing else is written; in every state of the invariant the byte it emits is one that was written since reset. -/
def Obligations.TxpopEmitsTheNextByte : Prop :=
  (∀ s : State, s.txptr.toNat < 5 → ∃ t : State, exec .txpop s = .next t ∧
    t.txd = s.txByte s.txptr.toNat ∧ t.txwire = s.txwire ++ [s.txByte s.txptr.toNat] ∧
    t.txptr.toNat = s.txptr.toNat + 1 ∧
    t = { s with txd := t.txd, txwire := t.txwire, txptr := t.txptr }) ∧
  (∀ s : State, 5 ≤ s.txptr.toNat → exec .txpop s = .next s) ∧
  (∀ s : State, s.Inv → s.txptr.toNat < 5 → (s.txbuf.byteAt s.txptr.toNat).isSome = true) ∧
  (∀ w : CmdWord, decode w = .ok .txpop ↔ w = 0x20000000)

/-- R80. TXCLR writes `TXPTR` only; no frame is then pending. -/
def Obligations.TxclrDropsThePendingFrame : Prop :=
  (∀ s : State, exec .txclr s = .next { s with txptr := 5 } ∧ ({ s with txptr := 5 } : State).txPend = false) ∧
  (∀ s : State, s.txptr = 5 → exec .txclr s = .next s) ∧
  (∀ w : CmdWord, decode w = .ok .txclr ↔ w = 0x60000000)

/-- R81 (which the spec marks as derived). From any state, BUILD and then five TXPOP, with any command words but BUILD
and TXCLR interleaved (illegal ones too), append exactly the frame to `txwire`, in that order, and end with `TXPTR ==
5`. -/
def Obligations.FiveTxpopsSendTheBuiltFrame : Prop :=
  ∀ (s : State) (a c p : Byte) (es rest : List Event),
    s.pending = .command (encode (.build a c p)) :: es ++ rest →
    (∀ e ∈ es, e ≠ .reset ∧ e.decoded ≠ some .txclr ∧ ∀ a' c' p', e.decoded ≠ some (.build a' c' p')) →
    es.countP (fun e => e.decoded == some .txpop) = 5 →
    ∃ t : State, Host.Core.run Sys2Proof.core (es.length + 1) s = .next t ∧
      t.txwire = s.txwire ++ [a, c, p, ck7 Config.params [a, c, p], 0x0D] ∧ t.txptr = 5 ∧ t.pending = rest

/-! ## The frame decoder (42_decoder.md) -/

/-- R86. RXPUSH below ten bytes stores at `RXCNT` and adds 1 to it; at ten it sets `RX_OVF`; nothing else is written
(`pushes` is the model's own count, log entry 7); its words are those with bits 31:8 equal to 0x300000. -/
def Obligations.RxpushStoresTheByte : Prop :=
  (∀ (b : Byte) (s : State), s.rxcnt.toNat < 10 → ∃ t : State, exec (.rxpush b) s = .next t ∧
    t.rxcnt.toNat = s.rxcnt.toNat + 1 ∧
    (∀ off, t.rxByte off = if off = s.rxcnt.toNat then b else s.rxByte off) ∧
    t = { s with rxbuf := t.rxbuf, rxcnt := t.rxcnt, pushes := t.pushes }) ∧
  (∀ (b : Byte) (s : State), 10 ≤ s.rxcnt.toNat → exec (.rxpush b) s = .next { s with rxOvf := true }) ∧
  (∀ w : CmdWord, w.extractLsb' 8 24 = 0x300000 ↔ decode w = .ok (.rxpush (w.extractLsb' 0 8)))

/-- R87. A byte pushed on a full buffer is dropped and sets `RX_OVF`; only RXCLR clears it among the operations; it has
no effect on PARSE. -/
def Obligations.OverflowDropsTheByteAndSticks : Prop :=
  (∀ (b : Byte) (s : State), s.rxcnt = 10 → exec (.rxpush b) s = .next { s with rxOvf := true }) ∧
  (∀ (i : Instr) (s t : State), exec i s = .next t → s.rxOvf = true → i ≠ .rxclr → t.rxOvf = true) ∧
  (∀ (s : State), ∃ t : State, exec .parse s = .next t ∧
    ∀ v : Bool, exec .parse { s with rxOvf := v } = .next { t with rxOvf := v })

/-- R88. RXCLR clears `RXCNT`, `RX_OVF` and `RESULT`, and nothing else. -/
def Obligations.RxclrEmptiesTheReceiveSide : Prop :=
  (∀ s : State, exec .rxclr s = .next { s with rxcnt := 0, rxOvf := false, result := 0 }) ∧
  (∀ w : CmdWord, decode w = .ok .rxclr ↔ w = 0x50000000)

/-- R85, R95. `parse_response` judges length, header and terminator, checksum, in that order, and decodes the first ten
bytes; whatever follows them is ignored. -/
def Obligations.ParseResponseJudgesInOrder : Prop :=
  ∀ (k : Nat) (bs : List Byte),
    (bs.length < 10 → parseResponse Config.params k bs = .tooShort) ∧
    (10 ≤ bs.length →
      (bs[0]? ≠ some 0x11 ∨ bs[1]? ≠ some 0x42 ∨ bs[9]? ≠ some 0x0D → parseResponse Config.params k bs = .malformed) ∧
      (bs[0]? = some 0x11 → bs[1]? = some 0x42 → bs[9]? = some 0x0D →
        (some (ck7 Config.params (bs.take 8)) ≠ bs[8]? → parseResponse Config.params k bs = .ckMismatch) ∧
        (some (ck7 Config.params (bs.take 8)) = bs[8]? →
          parseResponse Config.params k bs = .ok (decodeReading Config.params k (bs.take 10)))) ∧
      ∀ extra : List Byte, parseResponse Config.params k (bs ++ extra) = parseResponse Config.params k bs)

/-- R91. Fewer than ten bytes: `TOO_SHORT`, whatever the buffer holds; `parse_response` rejects all truncations. -/
def Obligations.ParseRejectsShortBuffers : Prop :=
  (∀ s : State, s.rxcnt.toNat < 10 → exec .parse s = .next { s with result := 2 }) ∧
  (∀ (k : Nat) (bs : List Byte), parseResponse Config.params k bs = .tooShort ↔ bs.length < 10)

/-- R92. Ten bytes with a wrong byte at offset 0, 1 or 9: `MALFORMED`. -/
def Obligations.ParseRejectsWrongHeaderOrTerminator : Prop :=
  ∀ s : State, 10 ≤ s.rxcnt.toNat → (s.rxByte 0 ≠ 0x11 ∨ s.rxByte 1 ≠ 0x42 ∨ s.rxByte 9 ≠ 0x0D) →
    exec .parse s = .next { s with result := 3 }

/-- R93. Header and terminator right, checksum of offsets 0..7 not the byte at offset 8: `CK_MISMATCH`. All eight bits
are compared, so a received byte with bit 7 set or equal to 0x0D never matches. -/
def Obligations.ParseRejectsWrongChecksum : Prop :=
  (∀ s : State, 10 ≤ s.rxcnt.toNat → s.rxByte 0 = 0x11 → s.rxByte 1 = 0x42 → s.rxByte 9 = 0x0D →
    ck7 Config.params ((List.range 8).map s.rxByte) ≠ s.rxByte 8 → exec .parse s = .next { s with result := 4 }) ∧
  (∀ (bs : List Byte) (b : Byte), 0x80 ≤ b.toNat ∨ b = 0x0D → ck7 Config.params bs ≠ b)

/-- PARSE in every state (R89, R90, R144, R146): the code of the first check that fails, or 1; a rejection writes
`RESULT` and nothing else; an acceptance writes the five reading registers with the decoded frame and `RESULT`,
nothing else. For a frame with a byte that is no digit, the values of `MAG` and `SVAL` are the draws at the index
`s.pushes`: that index is the model's choice (log entry 7, DESIGN CHOICE and DEDUCED), no rule of the spec. -/
def Obligations.ParseReportsTheFirstFailure : Prop :=
  (∀ s : State, ∃ t : State, exec .parse s = .next t ∧
    t.result = (if s.rxcnt.toNat < 10 then 2
      else if s.rxByte 0 ≠ 0x11 ∨ s.rxByte 1 ≠ 0x42 ∨ s.rxByte 9 ≠ 0x0D then 3
      else if ck7 Config.params ((List.range 8).map s.rxByte) ≠ s.rxByte 8 then 4
      else 1) ∧
    (t.result ≠ 1 → t = { s with result := t.result }) ∧
    (t.result = 1 →
      let r := decodeReading Config.params s.pushes ((List.range 10).map s.rxByte)
      t = { s with mag := r.mag, sval := r.sval, dp := r.dp, neg := r.neg, digitRange := r.rng, result := 1 })) ∧
  (∀ w : CmdWord, decode w = .ok .parse ↔ w = 0x40000000)

/-- PARSE is `parse_response` applied to the bytes now in the buffer, with its outcome recorded. That the draws of a
frame with a byte that is no digit are those at the index `s.pushes` is the model's choice (log entry 7, DESIGN CHOICE
and DEDUCED). -/
def Obligations.ParseRefinesParseResponse : Prop :=
  ∀ s : State, exec .parse s = .next (s.record (parseResponse Config.params s.pushes s.rxBytes))

/-- R94 (which the spec marks as derived). One byte of an accepted ten-byte frame changed: offsets 0, 1, 9 give
`MALFORMED`, offset 8 `CK_MISMATCH`, offsets 2..7 `CK_MISMATCH` unless only bit 7 changed or the masked sum moved
between 0x0D and 0x0E, and then the frame is accepted with the changed byte decoded. -/
def Obligations.SingleByteErrorDetection : Prop :=
  ∀ (k : Nat) (f : List Byte) (r : Reading), f.length = 10 → parseResponse Config.params k f = .ok r →
    ∀ (off : Nat) (h : off < f.length) (b : Byte), b ≠ f[off] →
      let g := f.set off b
      let missed := ((b.toNat : Int) - f[off].toNat = 128 ∨ (b.toNat : Int) - f[off].toNat = -128) ∨
        (sum7 Config.params (f.take 8) = 0x0D ∧ sum7 Config.params (g.take 8) = 0x0E) ∨
        (sum7 Config.params (f.take 8) = 0x0E ∧ sum7 Config.params (g.take 8) = 0x0D)
      (off = 0 ∨ off = 1 ∨ off = 9 → parseResponse Config.params k g = .malformed) ∧
      (off = 8 → parseResponse Config.params k g = .ckMismatch) ∧
      (2 ≤ off → off ≤ 7 → ¬missed → parseResponse Config.params k g = .ckMismatch) ∧
      (2 ≤ off → off ≤ 7 → missed → parseResponse Config.params k g = .ok (decodeReading Config.params k g))

/-- R170 (which the spec marks as derived). An accepted frame of digits with bit 7 of one byte of offsets 2..7 flipped
is still accepted: in a digit byte it raises `DIGIT_RANGE`, in the status byte it is ignored. -/
def Obligations.Bit7ErrorsPassTheChecks : Prop :=
  ∀ (k : Nat) (f : List Byte) (r : Reading), f.length = 10 → parseResponse Config.params k f = .ok r →
    r.rng = false → ∀ (off : Nat) (h : off < f.length),
      let g := f.set off (f[off] ^^^ 0x80)
      (2 ≤ off → off ≤ 6 → ∃ r' : Reading, parseResponse Config.params k g = .ok r' ∧ r'.rng = true) ∧
      (off = 7 → parseResponse Config.params k g = .ok r)

/-- R96. The transmit side has no influence on PARSE, which leaves it alone. -/
def Obligations.ParseIgnoresTheCommandSent : Prop :=
  ∀ s : State, ∃ t : State, exec .parse s = .next t ∧ ∀ (m : Memory) (p : BitVec 3) (d : Byte) (tw : List Byte),
    exec .parse { s with txbuf := m, txptr := p, txd := d, txwire := tw } =
      .next { t with txbuf := m, txptr := p, txd := d, txwire := tw }

/-- R97 (which the spec marks as derived). Every synthetic response frame, for five decimal digits and any status
byte, is accepted with its value. -/
def Obligations.SyntheticResponseRoundTrip : Prop :=
  ∀ (k d0 d1 d2 d3 d4 : Nat) (st : Byte), d0 ≤ 9 → d1 ≤ 9 → d2 ≤ 9 → d3 ≤ 9 → d4 ≤ 9 →
    let digit := fun d => BitVec.ofNat 8 (0x30 + d)
    let body := [0x11, 0x42, digit d0, digit d1, digit d2, digit d3, digit d4, st]
    ∃ r : Reading, parseResponse Config.params k (body ++ [ck7 Config.params body, 0x0D]) = .ok r ∧
      r.mag.toNat = 10000 * d0 + 1000 * d1 + 100 * d2 + 10 * d3 + d4 ∧ r.dp = st.extractLsb' 0 2 ∧
      r.neg = st.getLsbD 2 ∧ r.rng = false

/-- R36. Buffer reads have no side effect: TXPOP does not erase the byte it emits, PARSE changes neither `RXBUF` nor
`RXCNT`, a PARSE repeated on an unchanged buffer gives the same state; repeating TXPOP or RXPUSH does not. (The draws
for non-digit bytes are indexed so that they keep this rule, log entry 7.) -/
def Obligations.BufferReadsHaveNoSideEffect : Prop :=
  (∀ s t : State, exec .txpop s = .next t → t.txbuf = s.txbuf) ∧
  (∀ s t : State, exec .parse s = .next t → t.rxbuf = s.rxbuf ∧ t.rxcnt = s.rxcnt ∧ exec .parse t = .next t) ∧
  (∃ s t : State, exec .txpop s = .next t ∧ exec .txpop t ≠ .next t) ∧
  (∃ (b : Byte) (s t : State), exec (.rxpush b) s = .next t ∧ exec (.rxpush b) t ≠ .next t)

/-! ## The digit decoder (43_digit_decoder.md) -/

/-- R100, with the spec's general knowledge GK1 that `'0'` is 0x30 (PRESUMED, log entry 9). The digit bytes are
0x30..0x39; a digit's value is the byte minus 0x30, 0..9, and its low four bits, and its high four bits are 0x3. -/
def Obligations.DigitBytesAreAsciiDigits : Prop :=
  ∀ b : Byte, (isDigit Config.params b = true ↔ 0x30 ≤ b.toNat ∧ b.toNat ≤ 0x39) ∧
    (isDigit Config.params b = true → digitOf Config.params b = b.toNat - 0x30 ∧ digitOf Config.params b ≤ 9 ∧
      lowNibble b = digitOf Config.params b ∧ b.extractLsb' 4 4 = 0x3)

/-- R102, R104, R105, R106, with the spec's general knowledge GK1, GK2, GK4: 0x30, bit 0, two's complement (PRESUMED,
log entries 9 and 10). An accepted frame of five digit bytes: `MAG` is their base-10 number, most significant first;
`DP` and `NEG` are the status bits 1:0 and 2; `SVAL` is `MAG` with the sign; `DIGIT_RANGE` is 0; nothing else changes.
-/
def Obligations.ParseDecodesDigitFrames : Prop :=
  ∀ s : State, 10 ≤ s.rxcnt.toNat → s.rxByte 0 = 0x11 → s.rxByte 1 = 0x42 → s.rxByte 9 = 0x0D →
    ck7 Config.params ((List.range 8).map s.rxByte) = s.rxByte 8 →
    (∀ off, 2 ≤ off → off ≤ 6 → 0x30 ≤ (s.rxByte off).toNat ∧ (s.rxByte off).toNat ≤ 0x39) →
    let d := fun off => (s.rxByte off).toNat - 0x30
    ∃ t : State, exec .parse s = .next t ∧
      t.mag.toNat = 10000 * d 2 + 1000 * d 3 + 100 * d 4 + 10 * d 5 + d 6 ∧ t.mag.toNat ≤ 99999 ∧
      t.dp = (s.rxByte 7).extractLsb' 0 2 ∧ t.neg = (s.rxByte 7).getLsbD 2 ∧
      t.sval = (if t.neg then BitVec.ofNat 18 (2 ^ 18 - t.mag.toNat) else t.mag.setWidth 18) ∧
      t.sval.toInt = (if t.neg then -(t.mag.toNat : Int) else t.mag.toNat) ∧
      t.digitRange = false ∧ t.result = 1 ∧
      t = { s with mag := t.mag, sval := t.sval, dp := t.dp, neg := t.neg, digitRange := t.digitRange,
                   result := t.result }

/-- R103. An accepted frame, whatever its digit bytes: `DIGIT_RANGE` is 1 exactly when a byte of offsets 2..6 is
outside 0x30..0x39, `DP` and `NEG` are exact and `RESULT` is OK all the same; of the values written to `MAG` and
`SVAL` nothing is said here; nothing else changes. -/
def Obligations.ParseFlagsNonDigitFrames : Prop :=
  ∀ s : State, 10 ≤ s.rxcnt.toNat → s.rxByte 0 = 0x11 → s.rxByte 1 = 0x42 → s.rxByte 9 = 0x0D →
    ck7 Config.params ((List.range 8).map s.rxByte) = s.rxByte 8 →
    ∃ t : State, exec .parse s = .next t ∧ t.result = 1 ∧
      (t.digitRange = true ↔ ∃ off, 2 ≤ off ∧ off ≤ 6 ∧ ¬(0x30 ≤ (s.rxByte off).toNat ∧ (s.rxByte off).toNat ≤ 0x39)) ∧
      t.dp = (s.rxByte 7).extractLsb' 0 2 ∧ t.neg = (s.rxByte 7).getLsbD 2 ∧
      t = { s with mag := t.mag, sval := t.sval, dp := t.dp, neg := t.neg, digitRange := t.digitRange,
                   result := t.result }

/-- R104, R105. Whenever PARSE accepts, whatever the digit bytes are: `DP` is the status byte's bits 1:0, a count
0..3, and `NEG` its bit 2. -/
def Obligations.AcceptanceTakesStatusBits : Prop :=
  ∀ s t : State, exec .parse s = .next t → t.result = 1 →
    t.dp = (s.rxByte 7).extractLsb' 0 2 ∧ t.dp.toNat ≤ 3 ∧ t.neg = (s.rxByte 7).getLsbD 2

/-- The draws of R103 reach `MAG` and `SVAL` only, and only when a non-digit frame is accepted. -/
def Obligations.DrawsReachOnlyTheUnspecifiedValues : Prop :=
  ∀ (s : State) (k : Nat), ∃ t t' : State, exec .parse s = .next t ∧ exec .parse { s with pushes := k } = .next t' ∧
    t' = { t with pushes := k, mag := t'.mag, sval := t'.sval } ∧
    (t.result ≠ 1 ∨ t.digitRange = false → t'.mag = t.mag ∧ t'.sval = t.sval)

/-- R107. With `DIGIT_RANGE == 0` an accepted reading stands for `(-1)^NEG * MAG / 10^DP`, which is `SVAL / 10^DP`, at
most 99999 smallest steps away from 0; with `DIGIT_RANGE == 1` for no number. -/
def Obligations.ReadingStandsForASignedDecimal : Prop :=
  (∀ s : State, s.Inv → s.result = 1 → s.digitRange = false → ∃ q : ℚ, s.value = some q ∧
    q = (if s.neg then -1 else 1) * (s.mag.toNat : ℚ) / 10 ^ s.dp.toNat ∧
    q = (s.sval.toInt : ℚ) / 10 ^ s.dp.toNat ∧
    -99999 / 10 ^ s.dp.toNat ≤ q ∧ q ≤ 99999 / 10 ^ s.dp.toNat) ∧
  (∀ s : State, s.digitRange = true → s.value = none)

/-- R108 (which the spec marks as derived). Negative zero is accepted and delivered as it stands. -/
def Obligations.NegativeZeroIsDelivered : Prop :=
  ∀ s : State, 10 ≤ s.rxcnt.toNat → s.rxByte 0 = 0x11 → s.rxByte 1 = 0x42 → s.rxByte 9 = 0x0D →
    ck7 Config.params ((List.range 8).map s.rxByte) = s.rxByte 8 →
    (∀ off, 2 ≤ off → off ≤ 6 → s.rxByte off = 0x30) → (s.rxByte 7).getLsbD 2 = true →
    ∃ t : State, exec .parse s = .next t ∧ t.result = 1 ∧ t.neg = true ∧ t.mag = 0 ∧ t.sval = 0 ∧ t.value = some 0

/-- R109. Status bits 7:3 reach no reading register: two accepted frames alike in the digit bytes and in status bits 2:0
give the same reading, judged at the same draw (the draws for non-digit bytes are indexed so that they keep this rule
too, log entry 7). -/
def Obligations.StatusBits73AreIgnored : Prop :=
  ∀ (k : Nat) (f g : List Byte) (r r' : Reading), f.length = 10 → g.length = 10 →
    parseResponse Config.params k f = .ok r → parseResponse Config.params k g = .ok r' →
    (∀ off, 2 ≤ off → off ≤ 6 → f[off]? = g[off]?) →
    (f[7]?.map fun st => st.extractLsb' 0 3) = (g[7]?.map fun st => st.extractLsb' 0 3) → r = r'

/-- R110 (which the spec marks as derived). Horner's scheme and the low-nibble form equal the weighted sum on all
digit inputs, and differ from each other on some other bytes. -/
def Obligations.MagnitudeFormsAgreeOnDigits : Prop :=
  (∀ f : List Byte, (∀ b ∈ digitBytes Config.params f, isDigit Config.params b = true) →
    magnitudeHorner Config.params f = magnitude Config.params f ∧
    magnitudeNibbles Config.params f = magnitude Config.params f) ∧
  (∃ f : List Byte, magnitudeHorner Config.params f ≠ magnitudeNibbles Config.params f)

/-! ## The whole machine -/

/-- The invariant holds right after reset. -/
def Obligations.InvariantHoldsAtReset : Prop := State.reset.Inv

/-- The invariant of R27, and the canonical form of both buffers, is kept by every step from every state that meets
it. -/
def Obligations.EveryStepKeepsTheInvariant : Prop :=
  ∀ s t : State, s.Inv → step s = .next t → t.Inv

/-- The "written by" column of R10, over all operations: each item is changed by the operations it lists and no other;
the reading registers only by a PARSE that ends OK. -/
def Obligations.ItemsChangeOnlyByTheirWriters : Prop :=
  ∀ (i : Instr) (s t : State), exec i s = .next t →
    (t.txbuf ≠ s.txbuf → ∃ a c p, i = .build a c p) ∧
    (t.txptr ≠ s.txptr → (∃ a c p, i = .build a c p) ∨ i = .txpop ∨ i = .txclr) ∧
    (t.txd ≠ s.txd ∨ t.txwire ≠ s.txwire → i = .txpop) ∧
    (t.rxbuf ≠ s.rxbuf → ∃ b, i = .rxpush b) ∧
    (t.rxcnt ≠ s.rxcnt → (∃ b, i = .rxpush b) ∨ i = .rxclr) ∧
    (t.result ≠ s.result → i = .parse ∨ i = .rxclr) ∧
    (t.mag ≠ s.mag ∨ t.sval ≠ s.sval ∨ t.dp ≠ s.dp ∨ t.neg ≠ s.neg ∨ t.digitRange ≠ s.digitRange →
      i = .parse ∧ t.result = 1) ∧
    (t.rxOvf ≠ s.rxOvf → (∃ b, i = .rxpush b) ∨ i = .rxclr) ∧
    t.illcmd = s.illcmd ∧ t.pending = s.pending ∧ t.resets = s.resets

/-- R21. `txwire` is empty at the start of a run and every step, a reset event too, appends to it exactly the byte a
TXPOP emits, or nothing. -/
def Obligations.TxwireRecordsTheEmittedBytes : Prop :=
  State.reset.txwire = [] ∧
  ∀ s t : State, step s = .next t →
    ((s.pending.head?.bind Event.decoded = some .txpop ∧ s.txptr.toNat < 5) →
      t.txwire = s.txwire ++ [s.txByte s.txptr.toNat]) ∧
    (¬(s.pending.head?.bind Event.decoded = some .txpop ∧ s.txptr.toNat < 5) → t.txwire = s.txwire)

/-- R143. `RD_VALID` and `RD_ERR` are levels of `RESULT`, never high together, and fall only at RXCLR, PARSE or reset;
`RX_OVF` falls only at RXCLR or reset, `ILLCMD` only at reset. -/
def Obligations.StatusOutputsFallOnlyAtTheirClears : Prop :=
  (∀ s : State, (s.rdValid = true ↔ s.result = 1) ∧ (s.rdErr = true ↔ s.result ∈ [2, 3, 4]) ∧
    ¬(s.rdValid = true ∧ s.rdErr = true)) ∧
  ∀ s t : State, step s = .next t →
    let isReset := s.pending.head? = some .reset
    let isRxclr := s.pending.head?.bind Event.decoded = some .rxclr
    let isParse := s.pending.head?.bind Event.decoded = some .parse
    (s.rdValid = true → t.rdValid = false → isRxclr ∨ isParse ∨ isReset) ∧
    (s.rdErr = true → t.rdErr = false → isRxclr ∨ isParse ∨ isReset) ∧
    (s.rxOvf = true → t.rxOvf = false → isRxclr ∨ isReset) ∧
    (s.illcmd = true → t.illcmd = false → isReset) ∧
    (isRxclr → t.rdValid = false ∧ t.rdErr = false ∧ t.rxOvf = false) ∧
    (isReset → t.rdValid = false ∧ t.rdErr = false ∧ t.rxOvf = false ∧ t.illcmd = false)

/-- R20 (which the spec marks as derived from R17, R18, R22). The four derived outputs as functions of the state. -/
def Obligations.DerivedOutputs : Prop :=
  ∀ s : State, (s.rdValid = true ↔ s.result = 1) ∧ (s.rdErr = true ↔ s.result = 2 ∨ s.result = 3 ∨ s.result = 4) ∧
    (s.txPend = true ↔ s.txptr.toNat < 5) ∧ (s.rxFull = true ↔ s.rxcnt = 10)

/-- Unspecified buffer bytes are never used: two states of the invariant that differ only in the draw of unwritten bytes
step to states that differ only in that draw. -/
def Obligations.UnwrittenBytesAreNeverUsed : Prop :=
  ∀ s s' t t' : State, s.Inv → s.sameButUnwritten s' → step s = .next t → step s' = .next t' → t.sameButUnwritten t'

/-- The receive path of the block implements `parse_response`: after RXCLR, any command words but RXCLR, and PARSE, the
registers show the outcome of `parse_response` on the bytes pushed meanwhile, `RX_OVF` tells whether there were more
than ten, and the first ten are in the buffer. That the draws of a frame with a byte that is no digit are those at the
index `t.pushes` is the model's choice (log entry 7, DESIGN CHOICE and DEDUCED). -/
def Obligations.ReceivedBytesAreJudgedInOrder : Prop :=
  ∀ (s : State) (es rest : List Event),
    s.pending = .command (encode .rxclr) :: es ++ .command (encode .parse) :: rest →
    (∀ e ∈ es, e ≠ .reset ∧ e.decoded ≠ some .rxclr) →
    let bs := es.filterMap Event.pushed
    ∃ t : State, Host.Core.run Sys2Proof.core (es.length + 2) s = .next t ∧
      t.shows (parseResponse Config.params t.pushes bs) ∧ t.rxOvf = decide (10 < bs.length) ∧
      t.rxcnt.toNat = min bs.length 10 ∧ (List.range (min bs.length 10)).map t.rxByte = bs.take 10 ∧ t.pending = rest

/-- A polling tick of the host (the sequence of R132), from any state, for any address and any bytes that arrive: the
read command goes out byte by byte, and `RESULT` and the reading registers show what `parse_response` makes of the
bytes; fewer than ten bytes show as `TOO_SHORT`. What is emitted and shown follows from R81, R86 and R89. That the draws
of a frame with a byte that is no digit are those at the index `t.pushes` is the model's choice (log entry 7, DESIGN
CHOICE and DEDUCED). -/
def Obligations.PollingTickSendsReadAndJudgesResponse : Prop :=
  ∀ (s : State) (addr : Byte) (rs : List Byte) (rest : List Event),
    s.pending = asmEvents (pollTick addr rs) ++ rest →
    ∃ t : State, Host.Core.run Sys2Proof.core (asmEvents (pollTick addr rs)).length s = .next t ∧
      t.txwire = s.txwire ++ [addr, 0x42, 0x3F, ck7 Config.params [addr, 0x42, 0x3F], 0x0D] ∧ t.txptr = 5 ∧
      t.shows (parseResponse Config.params t.pushes rs) ∧ (rs.length < 10 → t.result = 2) ∧ t.pending = rest

/-- The host's stop sequence (context), from any state: no frame is pending, the receive side is empty, and nothing has
been emitted. -/
def Obligations.StopSequenceEmptiesBothSides : Prop :=
  ∀ (s : State) (rest : List Event), s.pending = asmEvents stopSequence ++ rest →
    ∃ t : State, Host.Core.run Sys2Proof.core 2 s = .next t ∧ t.txPend = false ∧ t.rxcnt = 0 ∧ t.rxOvf = false ∧
      t.rdValid = false ∧ t.rdErr = false ∧ t.txwire = s.txwire ∧ t.pending = rest
end

