-- ==== Sys2Proof/Laws/Decode.lean ====
section
/-! SUPPORT. The fields of an assembled command word, and what the decoder's two operand checks answer. -/

namespace Sys2Proof

theorem opField_assembleFields (op : BitVec 4) (b2 b1 b0 : Byte) : opField (assembleFields op b2 b1 b0) = op := by
  ext i hi
  simp only [opField, assembleFields, BitVec.getElem_extractLsb', BitVec.getLsbD_append]
  rw [if_neg (by omega), if_neg (by omega), if_neg (by omega), if_neg (by omega)]
  rw [BitVec.getLsbD_eq_getElem (by omega)]
  congr 1
  omega

theorem mbzField_assembleFields (op : BitVec 4) (b2 b1 b0 : Byte) : mbzField (assembleFields op b2 b1 b0) = 0 := by
  ext i hi
  simp only [mbzField, assembleFields, BitVec.getElem_extractLsb', BitVec.getLsbD_append]
  rw [if_neg (by omega), if_neg (by omega), if_neg (by omega), if_pos (by omega)]
  simp

theorem b2Field_assembleFields (op : BitVec 4) (b2 b1 b0 : Byte) : b2Field (assembleFields op b2 b1 b0) = b2 := by
  ext i hi
  simp only [b2Field, assembleFields, BitVec.getElem_extractLsb', BitVec.getLsbD_append]
  rw [if_neg (by omega), if_neg (by omega), if_pos (by omega), BitVec.getLsbD_eq_getElem (by omega)]
  congr 1
  omega

theorem b1Field_assembleFields (op : BitVec 4) (b2 b1 b0 : Byte) : b1Field (assembleFields op b2 b1 b0) = b1 := by
  ext i hi
  simp only [b1Field, assembleFields, BitVec.getElem_extractLsb', BitVec.getLsbD_append]
  rw [if_neg (by omega), if_pos (by omega), BitVec.getLsbD_eq_getElem (by omega)]
  congr 1
  omega

theorem b0Field_assembleFields (op : BitVec 4) (b2 b1 b0 : Byte) : b0Field (assembleFields op b2 b1 b0) = b0 := by
  ext i hi
  simp only [b0Field, assembleFields, BitVec.getElem_extractLsb', BitVec.getLsbD_append]
  rw [if_pos (by omega), BitVec.getLsbD_eq_getElem (by omega)]
  congr 1
  omega

/-- A command word is its five fields. -/
theorem cmdWord_ext {w w' : CmdWord} (ho : opField w = opField w') (hm : mbzField w = mbzField w')
    (h2 : b2Field w = b2Field w') (h1 : b1Field w = b1Field w') (h0 : b0Field w = b0Field w') : w = w' := by
  have key : ∀ (lo n : Nat) (hn : lo + n ≤ 32), w.extractLsb' lo n = w'.extractLsb' lo n →
      ∀ j, lo ≤ j → j < lo + n → w.getLsbD j = w'.getLsbD j := by
    intro lo n hn h j hlo hj
    have := congrArg (fun v => v.getLsbD (j - lo)) h
    simpa [BitVec.getLsbD_extractLsb', show j - lo < n by omega, show lo + (j - lo) = j by omega] using this
  refine BitVec.eq_of_getLsbD_eq fun j hj => ?_
  rcases Nat.lt_or_ge j 8 with h | h
  · exact key 0 8 (by omega) h0 j (by omega) (by omega)
  rcases Nat.lt_or_ge j 16 with h' | h'
  · exact key 8 8 (by omega) h1 j h (by omega)
  rcases Nat.lt_or_ge j 24 with h'' | h''
  · exact key 16 8 (by omega) h2 j h' (by omega)
  rcases Nat.lt_or_ge j 28 with h''' | h'''
  · exact key 24 4 (by omega) hm j h'' (by omega)
  · exact key 28 4 (by omega) ho j h''' (by omega)

theorem noOperand_ok {w : CmdWord} {i j : Instr} :
    noOperand w i = .ok j ↔ j = i ∧ b2Field w = 0 ∧ b1Field w = 0 ∧ b0Field w = 0 := by
  unfold noOperand
  split
  · rename_i h
    simp [h, eq_comm]
  · rename_i h
    exact ⟨fun e => (nomatch e), fun e => absurd e.2 h⟩

theorem pushOperand_ok {w : CmdWord} {j : Instr} :
    pushOperand w = .ok j ↔ j = .rxpush (b0Field w) ∧ b2Field w = 0 ∧ b1Field w = 0 := by
  unfold pushOperand
  split
  · rename_i h
    simp [h, eq_comm]
  · rename_i h
    exact ⟨fun e => (nomatch e), fun e => absurd e.2 h⟩

/-- What a legal word's fields are: its operation code below 7, `mbz` zero, and the operand fields the operation has. -/
theorem decode_ok {w : CmdWord} {i : Instr} (h : decode w = .ok i) :
    opField w = i.opCode ∧ mbzField w = 0 ∧ (b2Field w, b1Field w, b0Field w) = i.operandBytes := by
  unfold decode at h
  split at h
  · cases h
  split at h
  · cases h
  rename_i hm
  refine ⟨?_, by simpa using hm, ?_⟩ <;> split at h <;>
    first
    | (obtain ⟨rfl, h⟩ := noOperand_ok.1 h; simp_all [Instr.opCode, Instr.operandBytes])
    | (obtain ⟨rfl, h⟩ := pushOperand_ok.1 h; simp_all [Instr.opCode, Instr.operandBytes])
    | (cases h; simp_all [Instr.opCode, Instr.operandBytes])
    | cases h

end Sys2Proof
end

