-- ==== Sys2Proof/Laws/State.lean ====
section
/-! SUPPORT. One lemma per field per named update of the state, so that no proof unfolds an update. -/

namespace Sys2Proof.Machine

/-! ## `State.emit` -/

@[simp] theorem State.emit_txbuf (s : State) (b : Byte) : (s.emit b).txbuf = s.txbuf := rfl
@[simp] theorem State.emit_txptr (s : State) (b : Byte) : (s.emit b).txptr = s.txptr := rfl
@[simp] theorem State.emit_txd (s : State) (b : Byte) : (s.emit b).txd = b := rfl
@[simp] theorem State.emit_rxbuf (s : State) (b : Byte) : (s.emit b).rxbuf = s.rxbuf := rfl
@[simp] theorem State.emit_rxcnt (s : State) (b : Byte) : (s.emit b).rxcnt = s.rxcnt := rfl
@[simp] theorem State.emit_result (s : State) (b : Byte) : (s.emit b).result = s.result := rfl
@[simp] theorem State.emit_mag (s : State) (b : Byte) : (s.emit b).mag = s.mag := rfl
@[simp] theorem State.emit_sval (s : State) (b : Byte) : (s.emit b).sval = s.sval := rfl
@[simp] theorem State.emit_dp (s : State) (b : Byte) : (s.emit b).dp = s.dp := rfl
@[simp] theorem State.emit_neg (s : State) (b : Byte) : (s.emit b).neg = s.neg := rfl
@[simp] theorem State.emit_digitRange (s : State) (b : Byte) : (s.emit b).digitRange = s.digitRange := rfl
@[simp] theorem State.emit_rxOvf (s : State) (b : Byte) : (s.emit b).rxOvf = s.rxOvf := rfl
@[simp] theorem State.emit_illcmd (s : State) (b : Byte) : (s.emit b).illcmd = s.illcmd := rfl
@[simp] theorem State.emit_txwire (s : State) (b : Byte) : (s.emit b).txwire = s.txwire ++ [b] := rfl
@[simp] theorem State.emit_resets (s : State) (b : Byte) : (s.emit b).resets = s.resets := rfl
@[simp] theorem State.emit_pushes (s : State) (b : Byte) : (s.emit b).pushes = s.pushes := rfl
@[simp] theorem State.emit_pending (s : State) (b : Byte) : (s.emit b).pending = s.pending := rfl

/-! ## `State.reject` -/

@[simp] theorem State.reject_txbuf (s : State) (code : BitVec 3) : (s.reject code).txbuf = s.txbuf := rfl
@[simp] theorem State.reject_txptr (s : State) (code : BitVec 3) : (s.reject code).txptr = s.txptr := rfl
@[simp] theorem State.reject_txd (s : State) (code : BitVec 3) : (s.reject code).txd = s.txd := rfl
@[simp] theorem State.reject_rxbuf (s : State) (code : BitVec 3) : (s.reject code).rxbuf = s.rxbuf := rfl
@[simp] theorem State.reject_rxcnt (s : State) (code : BitVec 3) : (s.reject code).rxcnt = s.rxcnt := rfl
@[simp] theorem State.reject_result (s : State) (code : BitVec 3) : (s.reject code).result = code := rfl
@[simp] theorem State.reject_mag (s : State) (code : BitVec 3) : (s.reject code).mag = s.mag := rfl
@[simp] theorem State.reject_sval (s : State) (code : BitVec 3) : (s.reject code).sval = s.sval := rfl
@[simp] theorem State.reject_dp (s : State) (code : BitVec 3) : (s.reject code).dp = s.dp := rfl
@[simp] theorem State.reject_neg (s : State) (code : BitVec 3) : (s.reject code).neg = s.neg := rfl
@[simp] theorem State.reject_digitRange (s : State) (code : BitVec 3) : (s.reject code).digitRange = s.digitRange := rfl
@[simp] theorem State.reject_rxOvf (s : State) (code : BitVec 3) : (s.reject code).rxOvf = s.rxOvf := rfl
@[simp] theorem State.reject_illcmd (s : State) (code : BitVec 3) : (s.reject code).illcmd = s.illcmd := rfl
@[simp] theorem State.reject_txwire (s : State) (code : BitVec 3) : (s.reject code).txwire = s.txwire := rfl
@[simp] theorem State.reject_resets (s : State) (code : BitVec 3) : (s.reject code).resets = s.resets := rfl
@[simp] theorem State.reject_pushes (s : State) (code : BitVec 3) : (s.reject code).pushes = s.pushes := rfl
@[simp] theorem State.reject_pending (s : State) (code : BitVec 3) : (s.reject code).pending = s.pending := rfl

/-! ## `State.illegalCommand` -/

@[simp] theorem State.illegalCommand_txbuf (s : State) : s.illegalCommand.txbuf = s.txbuf := rfl
@[simp] theorem State.illegalCommand_txptr (s : State) : s.illegalCommand.txptr = s.txptr := rfl
@[simp] theorem State.illegalCommand_txd (s : State) : s.illegalCommand.txd = s.txd := rfl
@[simp] theorem State.illegalCommand_rxbuf (s : State) : s.illegalCommand.rxbuf = s.rxbuf := rfl
@[simp] theorem State.illegalCommand_rxcnt (s : State) : s.illegalCommand.rxcnt = s.rxcnt := rfl
@[simp] theorem State.illegalCommand_result (s : State) : s.illegalCommand.result = s.result := rfl
@[simp] theorem State.illegalCommand_mag (s : State) : s.illegalCommand.mag = s.mag := rfl
@[simp] theorem State.illegalCommand_sval (s : State) : s.illegalCommand.sval = s.sval := rfl
@[simp] theorem State.illegalCommand_dp (s : State) : s.illegalCommand.dp = s.dp := rfl
@[simp] theorem State.illegalCommand_neg (s : State) : s.illegalCommand.neg = s.neg := rfl
@[simp] theorem State.illegalCommand_digitRange (s : State) : s.illegalCommand.digitRange = s.digitRange := rfl
@[simp] theorem State.illegalCommand_rxOvf (s : State) : s.illegalCommand.rxOvf = s.rxOvf := rfl
@[simp] theorem State.illegalCommand_illcmd (s : State) : s.illegalCommand.illcmd = true := rfl
@[simp] theorem State.illegalCommand_txwire (s : State) : s.illegalCommand.txwire = s.txwire := rfl
@[simp] theorem State.illegalCommand_resets (s : State) : s.illegalCommand.resets = s.resets := rfl
@[simp] theorem State.illegalCommand_pushes (s : State) : s.illegalCommand.pushes = s.pushes := rfl
@[simp] theorem State.illegalCommand_pending (s : State) : s.illegalCommand.pending = s.pending := rfl

/-! ## `State.withPending` -/

@[simp] theorem State.withPending_txbuf (s : State) (rest : List Event) : (s.withPending rest).txbuf = s.txbuf := rfl
@[simp] theorem State.withPending_txptr (s : State) (rest : List Event) : (s.withPending rest).txptr = s.txptr := rfl
@[simp] theorem State.withPending_txd (s : State) (rest : List Event) : (s.withPending rest).txd = s.txd := rfl
@[simp] theorem State.withPending_rxbuf (s : State) (rest : List Event) : (s.withPending rest).rxbuf = s.rxbuf := rfl
@[simp] theorem State.withPending_rxcnt (s : State) (rest : List Event) : (s.withPending rest).rxcnt = s.rxcnt := rfl
@[simp] theorem State.withPending_result (s : State) (rest : List Event) : (s.withPending rest).result = s.result := rfl
@[simp] theorem State.withPending_mag (s : State) (rest : List Event) : (s.withPending rest).mag = s.mag := rfl
@[simp] theorem State.withPending_sval (s : State) (rest : List Event) : (s.withPending rest).sval = s.sval := rfl
@[simp] theorem State.withPending_dp (s : State) (rest : List Event) : (s.withPending rest).dp = s.dp := rfl
@[simp] theorem State.withPending_neg (s : State) (rest : List Event) : (s.withPending rest).neg = s.neg := rfl
@[simp] theorem State.withPending_digitRange (s : State) (rest : List Event) : (s.withPending rest).digitRange = s.digitRange := rfl
@[simp] theorem State.withPending_rxOvf (s : State) (rest : List Event) : (s.withPending rest).rxOvf = s.rxOvf := rfl
@[simp] theorem State.withPending_illcmd (s : State) (rest : List Event) : (s.withPending rest).illcmd = s.illcmd := rfl
@[simp] theorem State.withPending_txwire (s : State) (rest : List Event) : (s.withPending rest).txwire = s.txwire := rfl
@[simp] theorem State.withPending_resets (s : State) (rest : List Event) : (s.withPending rest).resets = s.resets := rfl
@[simp] theorem State.withPending_pushes (s : State) (rest : List Event) : (s.withPending rest).pushes = s.pushes := rfl
@[simp] theorem State.withPending_pending (s : State) (rest : List Event) : (s.withPending rest).pending = rest := rfl

/-! ## `State.writeTxFrame` -/

@[simp] theorem State.writeTxFrame_txbuf (s : State) (f : List Byte) : (s.writeTxFrame f).txbuf = s.txbuf.storeList 0 f := rfl
@[simp] theorem State.writeTxFrame_txptr (s : State) (f : List Byte) : (s.writeTxFrame f).txptr = s.txptr := rfl
@[simp] theorem State.writeTxFrame_txd (s : State) (f : List Byte) : (s.writeTxFrame f).txd = s.txd := rfl
@[simp] theorem State.writeTxFrame_rxbuf (s : State) (f : List Byte) : (s.writeTxFrame f).rxbuf = s.rxbuf := rfl
@[simp] theorem State.writeTxFrame_rxcnt (s : State) (f : List Byte) : (s.writeTxFrame f).rxcnt = s.rxcnt := rfl
@[simp] theorem State.writeTxFrame_result (s : State) (f : List Byte) : (s.writeTxFrame f).result = s.result := rfl
@[simp] theorem State.writeTxFrame_mag (s : State) (f : List Byte) : (s.writeTxFrame f).mag = s.mag := rfl
@[simp] theorem State.writeTxFrame_sval (s : State) (f : List Byte) : (s.writeTxFrame f).sval = s.sval := rfl
@[simp] theorem State.writeTxFrame_dp (s : State) (f : List Byte) : (s.writeTxFrame f).dp = s.dp := rfl
@[simp] theorem State.writeTxFrame_neg (s : State) (f : List Byte) : (s.writeTxFrame f).neg = s.neg := rfl
@[simp] theorem State.writeTxFrame_digitRange (s : State) (f : List Byte) : (s.writeTxFrame f).digitRange = s.digitRange := rfl
@[simp] theorem State.writeTxFrame_rxOvf (s : State) (f : List Byte) : (s.writeTxFrame f).rxOvf = s.rxOvf := rfl
@[simp] theorem State.writeTxFrame_illcmd (s : State) (f : List Byte) : (s.writeTxFrame f).illcmd = s.illcmd := rfl
@[simp] theorem State.writeTxFrame_txwire (s : State) (f : List Byte) : (s.writeTxFrame f).txwire = s.txwire := rfl
@[simp] theorem State.writeTxFrame_resets (s : State) (f : List Byte) : (s.writeTxFrame f).resets = s.resets := rfl
@[simp] theorem State.writeTxFrame_pushes (s : State) (f : List Byte) : (s.writeTxFrame f).pushes = s.pushes := rfl
@[simp] theorem State.writeTxFrame_pending (s : State) (f : List Byte) : (s.writeTxFrame f).pending = s.pending := rfl

/-! ## `State.writeRx` -/

@[simp] theorem State.writeRx_txbuf (s : State) (off : Nat) (b : Byte) : (s.writeRx off b).txbuf = s.txbuf := rfl
@[simp] theorem State.writeRx_txptr (s : State) (off : Nat) (b : Byte) : (s.writeRx off b).txptr = s.txptr := rfl
@[simp] theorem State.writeRx_txd (s : State) (off : Nat) (b : Byte) : (s.writeRx off b).txd = s.txd := rfl
@[simp] theorem State.writeRx_rxbuf (s : State) (off : Nat) (b : Byte) : (s.writeRx off b).rxbuf = s.rxbuf.store off b := rfl
@[simp] theorem State.writeRx_rxcnt (s : State) (off : Nat) (b : Byte) : (s.writeRx off b).rxcnt = s.rxcnt := rfl
@[simp] theorem State.writeRx_result (s : State) (off : Nat) (b : Byte) : (s.writeRx off b).result = s.result := rfl
@[simp] theorem State.writeRx_mag (s : State) (off : Nat) (b : Byte) : (s.writeRx off b).mag = s.mag := rfl
@[simp] theorem State.writeRx_sval (s : State) (off : Nat) (b : Byte) : (s.writeRx off b).sval = s.sval := rfl
@[simp] theorem State.writeRx_dp (s : State) (off : Nat) (b : Byte) : (s.writeRx off b).dp = s.dp := rfl
@[simp] theorem State.writeRx_neg (s : State) (off : Nat) (b : Byte) : (s.writeRx off b).neg = s.neg := rfl
@[simp] theorem State.writeRx_digitRange (s : State) (off : Nat) (b : Byte) : (s.writeRx off b).digitRange = s.digitRange := rfl
@[simp] theorem State.writeRx_rxOvf (s : State) (off : Nat) (b : Byte) : (s.writeRx off b).rxOvf = s.rxOvf := rfl
@[simp] theorem State.writeRx_illcmd (s : State) (off : Nat) (b : Byte) : (s.writeRx off b).illcmd = s.illcmd := rfl
@[simp] theorem State.writeRx_txwire (s : State) (off : Nat) (b : Byte) : (s.writeRx off b).txwire = s.txwire := rfl
@[simp] theorem State.writeRx_resets (s : State) (off : Nat) (b : Byte) : (s.writeRx off b).resets = s.resets := rfl
@[simp] theorem State.writeRx_pushes (s : State) (off : Nat) (b : Byte) : (s.writeRx off b).pushes = s.pushes + 1 := rfl
@[simp] theorem State.writeRx_pending (s : State) (off : Nat) (b : Byte) : (s.writeRx off b).pending = s.pending := rfl

/-! ## `State.accept` -/

@[simp] theorem State.accept_txbuf (s : State) (r : Reading) : (s.accept r).txbuf = s.txbuf := rfl
@[simp] theorem State.accept_txptr (s : State) (r : Reading) : (s.accept r).txptr = s.txptr := rfl
@[simp] theorem State.accept_txd (s : State) (r : Reading) : (s.accept r).txd = s.txd := rfl
@[simp] theorem State.accept_rxbuf (s : State) (r : Reading) : (s.accept r).rxbuf = s.rxbuf := rfl
@[simp] theorem State.accept_rxcnt (s : State) (r : Reading) : (s.accept r).rxcnt = s.rxcnt := rfl
@[simp] theorem State.accept_result (s : State) (r : Reading) : (s.accept r).result = resultOk := rfl
@[simp] theorem State.accept_mag (s : State) (r : Reading) : (s.accept r).mag = r.mag := rfl
@[simp] theorem State.accept_sval (s : State) (r : Reading) : (s.accept r).sval = r.sval := rfl
@[simp] theorem State.accept_dp (s : State) (r : Reading) : (s.accept r).dp = r.dp := rfl
@[simp] theorem State.accept_neg (s : State) (r : Reading) : (s.accept r).neg = r.neg := rfl
@[simp] theorem State.accept_digitRange (s : State) (r : Reading) : (s.accept r).digitRange = r.rng := rfl
@[simp] theorem State.accept_rxOvf (s : State) (r : Reading) : (s.accept r).rxOvf = s.rxOvf := rfl
@[simp] theorem State.accept_illcmd (s : State) (r : Reading) : (s.accept r).illcmd = s.illcmd := rfl
@[simp] theorem State.accept_txwire (s : State) (r : Reading) : (s.accept r).txwire = s.txwire := rfl
@[simp] theorem State.accept_resets (s : State) (r : Reading) : (s.accept r).resets = s.resets := rfl
@[simp] theorem State.accept_pushes (s : State) (r : Reading) : (s.accept r).pushes = s.pushes := rfl
@[simp] theorem State.accept_pending (s : State) (r : Reading) : (s.accept r).pending = s.pending := rfl

/-! ## `State.resetEvent` -/

@[simp] theorem State.resetEvent_txbuf (s : State) : s.resetEvent.txbuf = State.reset.txbuf := rfl
@[simp] theorem State.resetEvent_txptr (s : State) : s.resetEvent.txptr = State.reset.txptr := rfl
@[simp] theorem State.resetEvent_txd (s : State) : s.resetEvent.txd = State.reset.txd := rfl
@[simp] theorem State.resetEvent_rxbuf (s : State) : s.resetEvent.rxbuf = State.reset.rxbuf := rfl
@[simp] theorem State.resetEvent_rxcnt (s : State) : s.resetEvent.rxcnt = State.reset.rxcnt := rfl
@[simp] theorem State.resetEvent_result (s : State) : s.resetEvent.result = State.reset.result := rfl
@[simp] theorem State.resetEvent_mag (s : State) : s.resetEvent.mag = State.reset.mag := rfl
@[simp] theorem State.resetEvent_sval (s : State) : s.resetEvent.sval = State.reset.sval := rfl
@[simp] theorem State.resetEvent_dp (s : State) : s.resetEvent.dp = State.reset.dp := rfl
@[simp] theorem State.resetEvent_neg (s : State) : s.resetEvent.neg = State.reset.neg := rfl
@[simp] theorem State.resetEvent_digitRange (s : State) : s.resetEvent.digitRange = State.reset.digitRange := rfl
@[simp] theorem State.resetEvent_rxOvf (s : State) : s.resetEvent.rxOvf = State.reset.rxOvf := rfl
@[simp] theorem State.resetEvent_illcmd (s : State) : s.resetEvent.illcmd = State.reset.illcmd := rfl
@[simp] theorem State.resetEvent_txwire (s : State) : s.resetEvent.txwire = s.txwire := rfl
@[simp] theorem State.resetEvent_resets (s : State) : s.resetEvent.resets = s.resets + 1 := rfl
@[simp] theorem State.resetEvent_pushes (s : State) : s.resetEvent.pushes = s.pushes := rfl
@[simp] theorem State.resetEvent_pending (s : State) : s.resetEvent.pending = s.pending := rfl

end Sys2Proof.Machine
end

