-- ==== Sys2Proof/Laws/Ops.lean ====
section
/-! SUPPORT. What the buffer operations do, said once: reads after writes, and that every write keeps the canonical
form. -/

namespace Sys2Proof.Machine

/-! ## Reading after writing -/

theorem Memory.byteAt_store_same (m : Memory) (off : Nat) (b : Byte) : (m.store off b).byteAt off = some b := by
  induction m with
  | nil => simp [store, byteAt]
  | cons c m ih =>
    obtain ⟨k, v⟩ := c
    simp only [store]
    split
    · simp [byteAt]
    · split
      · simp [byteAt]
      · rename_i h
        simp [byteAt, h, ih]

theorem Memory.byteAt_store_other (m : Memory) {off off' : Nat} (b : Byte) (h : off' ≠ off) :
    (m.store off b).byteAt off' = m.byteAt off' := by
  induction m with
  | nil => simp [store, byteAt, h]
  | cons c m ih =>
    obtain ⟨k, v⟩ := c
    simp only [store]
    split
    · simp [byteAt, h]
    · split
      · rename_i hk
        subst hk
        simp [byteAt, h]
      · simp [byteAt, ih]

/-- A byte after a write: the written one at its offset, the old one elsewhere. -/
theorem Memory.byteAt_store (m : Memory) (off off' : Nat) (b : Byte) :
    (m.store off b).byteAt off' = if off' = off then some b else m.byteAt off' := by
  split
  · rename_i h
    rw [h, byteAt_store_same]
  · exact byteAt_store_other m b ‹_›

/-- A byte after a list has been written from `off` on. -/
theorem Memory.byteAt_storeList (m : Memory) (off : Nat) (bs : List Byte) (off' : Nat) :
    (m.storeList off bs).byteAt off' =
      if off ≤ off' ∧ off' < off + bs.length then bs[off' - off]? else m.byteAt off' := by
  induction bs generalizing m off with
  | nil =>
    have h : ¬(off ≤ off' ∧ off' < off + 0) := by omega
    simp only [storeList, List.length_nil, h, if_false]
  | cons b bs ih =>
    rw [storeList, ih, byteAt_store]
    rcases Nat.lt_trichotomy off' off with h | h | h
    · have h1 : ¬(off + 1 ≤ off' ∧ off' < off + 1 + bs.length) := by omega
      have h2 : ¬(off ≤ off' ∧ off' < off + (b :: bs).length) := by omega
      rw [if_neg h1, if_neg h2, if_neg (by omega)]
    · subst h
      simp
    · obtain ⟨n, rfl⟩ := Nat.exists_eq_add_of_lt h
      have e : off + n + 1 - off = n + 1 := by omega
      have e' : off + n + 1 - (off + 1) = n := by omega
      rw [e, e', List.getElem?_cons_succ, if_neg (by omega : ¬off + n + 1 = off)]
      simp only [List.length_cons]
      congr 1
      apply propext
      constructor <;> intro <;> omega

/-! ## The canonical form -/

theorem Memory.mem_store {m : Memory} {off : Nat} {b : Byte} {c : Host.Cell} (h : c ∈ m.store off b) :
    c = (off, b) ∨ c ∈ m := by
  induction m with
  | nil => simpa [store] using h
  | cons d m ih =>
    obtain ⟨k, v⟩ := d
    simp only [store] at h
    split at h
    · simpa using h
    · split at h
      · rcases List.mem_cons.1 h with h | h
        · exact .inl h
        · exact .inr (List.mem_cons_of_mem _ h)
      · rcases List.mem_cons.1 h with h | h
        · exact .inr (h ▸ List.mem_cons_self)
        · exact (ih h).imp id (List.mem_cons_of_mem _)

theorem Memory.store_rising {m : Memory} (off : Nat) (b : Byte) (h : m.Pairwise (fun x y => x.1 < y.1)) :
    (m.store off b).Pairwise (fun x y => x.1 < y.1) := by
  induction m with
  | nil => simp [store]
  | cons d m ih =>
    obtain ⟨k, v⟩ := d
    obtain ⟨hd, hm⟩ := List.pairwise_cons.1 h
    simp only [store]
    split
    · rename_i hlt
      refine List.pairwise_cons.2 ⟨fun c hc => ?_, h⟩
      rcases List.mem_cons.1 hc with rfl | hc
      · exact hlt
      · exact Nat.lt_trans hlt (hd c hc)
    · split
      · rename_i heq
        subst heq
        exact List.pairwise_cons.2 ⟨hd, hm⟩
      · refine List.pairwise_cons.2 ⟨fun c hc => ?_, ih hm⟩
        rcases mem_store hc with rfl | hc
        · show k < off
          omega
        · exact hd c hc

/-- A write inside the buffer keeps its canonical form. -/
theorem Memory.store_wf {size : Nat} {m : Memory} {off : Nat} (b : Byte) (h : Memory.wf size m) (hoff : off < size) :
    Memory.wf size (m.store off b) :=
  ⟨store_rising off b h.1, fun c hc => (mem_store hc).elim (fun e => e ▸ hoff) (h.2 c)⟩

/-- Writing a list inside the buffer keeps its canonical form. -/
theorem Memory.storeList_wf {size : Nat} {m : Memory} {off : Nat} (bs : List Byte) (h : Memory.wf size m)
    (hoff : off + bs.length ≤ size) : Memory.wf size (m.storeList off bs) := by
  induction bs generalizing m off with
  | nil => exact h
  | cons b bs ih =>
    simp only [List.length_cons] at hoff
    exact ih (store_wf b h (by omega)) (by omega)

/-- The empty buffer, the one of `State.reset`, is in canonical form. -/
theorem Memory.nil_wf (size : Nat) : Memory.wf size [] :=
  ⟨List.Pairwise.nil, fun _ h => nomatch h⟩

/-! ## Bytes of the state -/

theorem State.rxByte_of_store {s t : State} {off : Nat} {b : Byte} (h : t.rxbuf = s.rxbuf.store off b)
    (hr : t.resets = s.resets) (off' : Nat) : t.rxByte off' = if off' = off then b else s.rxByte off' := by
  simp only [rxByte, h, hr, Memory.byteAt_store]
  split <;> simp

theorem State.txByte_of_storeList {s t : State} {f : List Byte} (h : t.txbuf = s.txbuf.storeList 0 f)
    {off : Nat} (hoff : off < f.length) : t.txByte off = f[off] := by
  simp [txByte, h, Memory.byteAt_storeList, hoff]

/-- Reading the buffers depends on their contents and on the draw of unwritten bytes alone. -/
theorem State.rxByte_congr {s t : State} (h : t.rxbuf = s.rxbuf) (hr : t.resets = s.resets) : t.rxByte = s.rxByte := by
  funext off
  simp [rxByte, h, hr]

theorem State.txByte_congr {s t : State} (h : t.txbuf = s.txbuf) (hr : t.resets = s.resets) : t.txByte = s.txByte := by
  funext off
  simp [txByte, h, hr]

theorem State.rxFrame_congr {s t : State} (h : t.rxbuf = s.rxbuf) (hr : t.resets = s.resets) : t.rxFrame = s.rxFrame := by
  rw [rxFrame, rxFrame, rxByte_congr h hr]

/-- A written byte does not depend on the draw. -/
theorem State.rxByte_written {s : State} {off : Nat} {b : Byte} (h : s.rxbuf.byteAt off = some b) : s.rxByte off = b := by
  simp [rxByte, h]

theorem State.txByte_written {s : State} {off : Nat} {b : Byte} (h : s.txbuf.byteAt off = some b) : s.txByte off = b := by
  simp [txByte, h]

end Sys2Proof.Machine
end

