-- ==== Sys2Proof/Laws/Exec.lean ====
section
/-! SUPPORT. What each operation and each step can answer, said once: the provers cite these and need not unfold the
meanings. -/

namespace Sys2Proof.Machine

/-- The frame BUILD writes, at the default parameters. -/
theorem buildCommand_length (P : Params) (a c p : Byte) : (buildCommand P a c p).length = 5 := rfl

theorem execNop_next {s t : State} (h : execNop s = .next t) : t = s := by
  cases h
  rfl

theorem execBuild_next {a c p : Byte} {s t : State} (h : execBuild a c p s = .next t) :
    t = { s with txbuf := s.txbuf.storeList 0 (buildCommand Config.params a c p), txptr := 0 } := by
  cases h
  rfl

theorem execTxpop_next {s t : State} (h : execTxpop s = .next t) :
    (s.txptr.toNat < 5 ∧
      t = { s with
        txd := s.txByte s.txptr.toNat
        txwire := s.txwire ++ [s.txByte s.txptr.toNat]
        txptr := s.txptr + 1 }) ∨
    (5 ≤ s.txptr.toNat ∧ t = s) := by
  unfold execTxpop at h
  split at h
  · rename_i hp
    cases h
    exact .inl ⟨hp, rfl⟩
  · rename_i hp
    cases h
    exact .inr ⟨Nat.le_of_not_lt hp, rfl⟩

theorem execTxclr_next {s t : State} (h : execTxclr s = .next t) : t = { s with txptr := 5 } := by
  cases h
  rfl

theorem execRxpush_next {b : Byte} {s t : State} (h : execRxpush b s = .next t) :
    (s.rxcnt.toNat < 10 ∧
      t = { s with
        rxbuf := s.rxbuf.store s.rxcnt.toNat b
        pushes := s.pushes + 1
        rxcnt := s.rxcnt + 1 }) ∨
    (10 ≤ s.rxcnt.toNat ∧ t = { s with rxOvf := true }) := by
  unfold execRxpush at h
  split at h
  · rename_i hc
    cases h
    exact .inl ⟨hc, rfl⟩
  · rename_i hc
    cases h
    exact .inr ⟨Nat.le_of_not_lt hc, rfl⟩

theorem execRxclr_next {s t : State} (h : execRxclr s = .next t) :
    t = { s with rxcnt := 0, rxOvf := false, result := 0 } := by
  cases h
  rfl

theorem execParse_next {s t : State} (h : execParse s = .next t) :
    (s.rxcnt.toNat < 10 ∧ t = s.reject resultTooShort) ∨
    (10 ≤ s.rxcnt.toNat ∧ badHeader Config.params s.rxFrame = true ∧ t = s.reject resultMalformed) ∨
    (10 ≤ s.rxcnt.toNat ∧ badHeader Config.params s.rxFrame = false ∧ badChecksum Config.params s.rxFrame = true ∧
      t = s.reject resultCkMismatch) ∨
    (10 ≤ s.rxcnt.toNat ∧ badHeader Config.params s.rxFrame = false ∧ badChecksum Config.params s.rxFrame = false ∧
      t = s.accept (decodeReading Config.params s.pushes s.rxFrame)) := by
  unfold execParse at h
  split at h
  · rename_i hc
    cases h
    exact .inl ⟨hc, rfl⟩
  rename_i hc
  have hc : 10 ≤ s.rxcnt.toNat := Nat.le_of_not_lt hc
  split at h
  · rename_i hh
    cases h
    exact .inr (.inl ⟨hc, hh, rfl⟩)
  rename_i hh
  have hh := Bool.eq_false_iff.2 hh
  split at h
  · rename_i hk
    cases h
    exact .inr (.inr (.inl ⟨hc, hh, hk, rfl⟩))
  · rename_i hk
    cases h
    exact .inr (.inr (.inr ⟨hc, hh, Bool.eq_false_iff.2 hk, rfl⟩))

/-- The bytes of a whole frame in the buffer. -/
theorem State.frameByte_rxFrame (s : State) {off : Nat} (h : off < 10) : frameByte s.rxFrame off = s.rxByte off := by
  have hlen : off < Config.params.respLen := h
  simp [frameByte, rxFrame, List.getD, hlen]

/-- What a step can do: nothing presented, a reset event, an illegal word, or one operation. -/
theorem step_next {s t : State} (h : step s = .next t) :
    (s.pending = [] ∧ t = s) ∨
    (∃ rest, s.pending = .reset :: rest ∧ t = (s.withPending rest).resetEvent) ∨
    (∃ w e rest, s.pending = .command w :: rest ∧ decode w = .error e ∧ t = (s.withPending rest).illegalCommand) ∨
    (∃ w i rest, s.pending = .command w :: rest ∧ decode w = .ok i ∧ exec i (s.withPending rest) = .next t) := by
  unfold step at h
  split at h
  · rename_i hp
    cases h
    exact .inl ⟨hp, rfl⟩
  · rename_i rest hp
    cases h
    exact .inr (.inl ⟨rest, hp, rfl⟩)
  · rename_i w rest hp
    split at h
    · rename_i i hd
      exact .inr (.inr (.inr ⟨w, i, rest, hp, hd, h⟩))
    · rename_i e hd
      cases h
      exact .inr (.inr (.inl ⟨w, e, rest, hp, hd, rfl⟩))

end Sys2Proof.Machine
end

