-- ==== Sys2Proof/Laws/PerInstr.lean ====
section
/-! SUPPORT. The family `EncodedFields`: the fields of an operation's command word are its operation code, zero, and its
operand bytes (R45, R47, R57). -/

namespace Sys2Proof.Laws.EncodedFields

/-- The fields of the word an operation is encoded as. -/
def Statement (i : Instr) : Prop :=
  opField (encode i) = i.opCode ∧ mbzField (encode i) = 0 ∧
    (b2Field (encode i), b1Field (encode i), b0Field (encode i)) = i.operandBytes

theorem of_fields (i : Instr) : Statement i := by
  simp only [Statement, encode, opField_assembleFields, mbzField_assembleFields, b2Field_assembleFields,
    b1Field_assembleFields, b0Field_assembleFields, and_self]

theorem nop : Statement .nop := of_fields _
theorem build (a c p : Byte) : Statement (.build a c p) := of_fields _
theorem txpop : Statement .txpop := of_fields _
theorem rxpush (b : Byte) : Statement (.rxpush b) := of_fields _
theorem parse : Statement .parse := of_fields _
theorem rxclr : Statement .rxclr := of_fields _
theorem txclr : Statement .txclr := of_fields _

end Sys2Proof.Laws.EncodedFields
end

