-- ==== Sys2Proof/Tests/Slice0.lean ====
section
/-! SUPPORT. Checks of this model: ill-formed terms refused, words written out from R45 and R47, single steps with the
expected results of 95_test_vectors.md, and one witness for the hypotheses of each statement that has some. -/

namespace Sys2Proof.Tests

open Sys2Proof.Machine

/-! ## WellFormed refuses -/

theorem test_instr_wellFormed :
    [Instr.nop, .build 0xFF 0 0x80, .txpop, .rxpush 0xFF, .parse, .rxclr, .txclr].all Instr.wellFormed = true := by
  decide
theorem test_asm_wellFormed :
    [AsmLine.build 255 0 0x42, .rxpush 255, .read 0x32, .wake 1 0, .send, .recv [0x11], .recvFrame [0x11, 0x42, 0x30,
      0x30, 0x31, 0x32, 0x35, 0x02, 0x4D, 0x0D], .word 0xFFFFFFFF].all AsmLine.wellFormed = true := by decide
theorem test_build_operands_are_bytes :
    [AsmLine.build 256 0 0, .build 0 256 0, .build 0 0 256].any AsmLine.wellFormed = false := by decide
theorem test_rxpush_operand_is_a_byte : (AsmLine.rxpush 256).wellFormed = false := by decide
theorem test_read_operand_is_a_byte : (AsmLine.read 256).wellFormed = false := by decide
theorem test_wake_operands_are_bytes : [AsmLine.wake 256 0, .wake 0 256].any AsmLine.wellFormed = false := by decide
theorem test_recv_lists_a_byte : (AsmLine.recv []).wellFormed = false := by decide
theorem test_recv_operands_are_bytes : (AsmLine.recv [1, 256]).wellFormed = false := by decide
theorem test_recvFrame_lists_ten_bytes : (AsmLine.recvFrame [1, 2, 3, 4, 5, 6, 7, 8, 9]).wellFormed = false := by decide
theorem test_recvFrame_operands_are_bytes :
    (AsmLine.recvFrame [1, 2, 3, 4, 5, 6, 7, 8, 9, 256]).wellFormed = false := by decide
theorem test_raw_word_has_32_bits : (AsmLine.word (2 ^ 32)).wellFormed = false := by decide
theorem test_params_wellFormed : Config.params.wellFormed = true := by decide
theorem test_params_checks : [({ cmdLen := 6 } : Params), { respLen := 11 }, { respLen := 16, nDigits := 11 },
    { respLen := 11, nDigits := 6 }, { dpMax := 4 }, { ckMask := 0xFF }, { digitBase := 0xF7 }].map Params.wellFormed =
    List.replicate 7 false := by decide

/-! ## Decoding: words written out from R45 and R47, and the words of 95_test_vectors.md -/

theorem test_decode_nop : decode 0b0000_0000_00000000_00000000_00000000#32 = .ok .nop := by decide
theorem test_decode_build :
    decode 0b0001_0000_00000001_01000010_00111111#32 = .ok (.build 0x01 0x42 0x3F) := by decide
theorem test_decode_txpop : decode 0b0010_0000_00000000_00000000_00000000#32 = .ok .txpop := by decide
theorem test_decode_rxpush : decode 0b0011_0000_00000000_00000000_00110101#32 = .ok (.rxpush 0x35) := by decide
theorem test_decode_parse : decode 0b0100_0000_00000000_00000000_00000000#32 = .ok .parse := by decide
theorem test_decode_rxclr : decode 0b0101_0000_00000000_00000000_00000000#32 = .ok .rxclr := by decide
theorem test_decode_txclr : decode 0b0110_0000_00000000_00000000_00000000#32 = .ok .txclr := by decide
/-- V-I1 to V-I6. -/
theorem test_decode_illegal : [0x70000000, 0xFFFFFFFF, 0x40000001, 0x01000000, 0x3000010D, 0x1101423F].map decode =
    [.error .reservedOp, .error .reservedOp, .error .unusedOperandNotZero, .error .mbzNotZero,
      .error .unusedOperandNotZero, .error .mbzNotZero] := by decide
/-- R57's examples. -/
theorem test_assemble : assemble (.build 0x01 0x42 0x3F) = [0x1001423F] ∧ assemble (.rxpush 0x35) = [0x30000035] ∧
    assemble .parse = [0x40000000] := by decide
/-- R58, P4. -/
theorem test_assemble_pseudo : assemble (.read 0x0C) = [0x100C423F] ∧ assemble (.wake 0x01 0) = [0x10014400] ∧
    assemble .send = [0x20000000, 0x20000000, 0x20000000, 0x20000000, 0x20000000] ∧
    assemble (.recvFrame [0x11, 0x42]) = [0x50000000, 0x30000011, 0x30000042] ∧
    assemble (.recv [0x06]) = [0x30000006] ∧ assemble (.word 0x40000001) = [0x40000001] := by decide
theorem test_decodeTableWord : decodeTableWord 32 0x1001423F = some (.build 0x01 0x42 0x3F) ∧
    decodeTableWord 8 0x35 = none ∧ decodeTableWord 32 0x70000000 = none ∧ decodeTableWord 64 0 = none := by decide

/-! ## Single steps, expected results from 95_test_vectors.md -/

/-- The state a step answers. -/
def nextOf : Outcome → Option State
  | .next s => some s
  | .fault _ => none
  | .refused _ => none

/-- `RXCLR` and the pushes of `bs`, done at once. -/
def received (bs : List Byte) : State :=
  { State.reset with rxbuf := Memory.storeList [] 0 bs, rxcnt := BitVec.ofNat 4 bs.length, pushes := bs.length }

/-- A state with the frame of V-C1 in `TXBUF`. -/
def built (ptr : BitVec 3) : State :=
  { State.reset with txbuf := Memory.storeList [] 0 [0x01, 0x42, 0x3F, 0x02, 0x0D], txptr := ptr }

/-- V-P1. -/
def frameP1 : List Byte := [0x11, 0x42, 0x30, 0x30, 0x31, 0x32, 0x35, 0x02, 0x4D, 0x0D]

/-- `RESULT`, `MAG`, `SVAL`, `DP`, `NEG`, `DIGIT_RANGE` as numbers. -/
def shown (s : State) : List Nat :=
  [s.result.toNat, s.mag.toNat, s.sval.toNat, s.dp.toNat, s.neg.toNat, s.digitRange.toNat]

theorem test_nop : nextOf (exec .nop (built 2)) = some (built 2) := by decide
/-- V-C1 and V-C2. -/
theorem test_build : nextOf (exec (.build 0x01 0x42 0x3F) State.reset) = some (built 0) ∧
    (nextOf (exec (.build 0x0C 0x42 0x3F) (built 3))).map State.txbuf =
      some [(0, 0x0C), (1, 0x42), (2, 0x3F), (3, 0x0E), (4, 0x0D)] := by decide
/-- V-C8 and V-C11. -/
theorem test_build_checksum : ck7 Config.params [0xFF, 0xFF, 0xFF] = 0x7D ∧ ck7 Config.params [0x7F, 0, 0] = 0x7F := by
  decide
/-- V-T1 and V-T5. -/
theorem test_txpop : nextOf (exec .txpop (built 0)) = some { built 1 with txd := 0x01, txwire := [0x01] } ∧
    nextOf (exec .txpop (built 4)) = some { built 5 with txd := 0x0D, txwire := [0x0D] } := by decide
/-- V-T6 and V-T8. -/
theorem test_txpop_empty : nextOf (exec .txpop (built 5)) = some (built 5) ∧
    nextOf (exec .txpop State.reset) = some State.reset := by decide
/-- R80's example. -/
theorem test_txclr : nextOf (exec .txclr (built 2)) = some (built 5) := by decide
/-- V-R2. -/
theorem test_rxpush : nextOf (exec (.rxpush 0x0D) (received (frameP1.take 9))) = some (received frameP1) := by decide
/-- V-R3. -/
theorem test_rxpush_full :
    nextOf (exec (.rxpush 0x41) (received frameP1)) = some { received frameP1 with rxOvf := true } := by decide
/-- V-R4. -/
theorem test_rxclr :
    nextOf (exec .rxclr { received frameP1 with rxOvf := true, result := 1, mag := 125 }) =
      some { received frameP1 with rxcnt := 0, mag := 125 } := by decide
/-- V-P1, V-P2, V-P6 and V-P20. -/
theorem test_parse_accepts : ([frameP1, [0x11, 0x42, 0x30, 0x30, 0x31, 0x32, 0x35, 0x06, 0x51, 0x0D],
      [0x11, 0x42, 0x39, 0x39, 0x39, 0x39, 0x39, 0x07, 0x77, 0x0D],
      [0x11, 0x42, 0x30, 0x30, 0x31, 0x32, 0x35, 0x0D, 0x58, 0x0D]].map fun f =>
        (nextOf (exec .parse (received f))).map shown) =
    [some [1, 125, 0x0007D, 2, 0, 0], some [1, 125, 0x3FF83, 2, 1, 0],
      some [1, 99999, 0x27961, 3, 1, 0], some [1, 125, 0x3FF83, 1, 1, 0]] := by decide
/-- V-E3, V-E4, V-E8, V-E10 and V-E13. -/
theorem test_parse_rejects : ([frameP1.take 9, [0x10, 0x42, 0x30, 0x30, 0x31, 0x32, 0x35, 0x02, 0x4D, 0x0D],
      [0x91, 0x42, 0x30, 0x30, 0x31, 0x32, 0x35, 0x02, 0x4D, 0x0D],
      [0x11, 0x42, 0x30, 0x30, 0x31, 0x32, 0x36, 0x02, 0x4D, 0x0D],
      [0x11, 0x42, 0x30, 0x30, 0x31, 0x32, 0x35, 0x02, 0xCD, 0x0D]].map fun f =>
        (nextOf (exec .parse (received f))).map State.result) = [some 2, some 3, some 3, some 4, some 4] := by decide
/-- V-P13, and V-P17, V-P18: the bytes just outside the digits. -/
theorem test_parse_flags_non_digits : ([[0x11, 0x42, 0x30, 0x30, 0xB1, 0x32, 0x35, 0x02, 0x4D, 0x0D],
      [0x11, 0x42, 0x3A, 0x30, 0x30, 0x30, 0x30, 0x00, 0x4D, 0x0D],
      [0x11, 0x42, 0x2F, 0x30, 0x30, 0x30, 0x30, 0x00, 0x42, 0x0D]].map fun f =>
        (nextOf (exec .parse (received f))).map fun s => (s.result, s.digitRange, s.dp, s.neg)) =
    [some (1, true, 2, false), some (1, true, 0, false), some (1, true, 0, false)] := by decide
/-- V-I1 and V-I3: an illegal word is one step that sets `ILLCMD`. -/
theorem test_illegal_word : ([0x70000000, 0x40000001].map fun w =>
      nextOf (step ((received frameP1).withPending [.command w]))) =
    List.replicate 2 (some { received frameP1 with illcmd := true }) := by decide
/-- V-Z1. -/
theorem test_reset_event :
    nextOf (step { built 3 with illcmd := true, result := 4, txwire := [1], pending := [.reset] }) =
      some { State.reset with txwire := [1], resets := 1 } := by decide
/-- R20, at the end of P1. -/
theorem test_derived_outputs : ({ received frameP1 with result := 1 } : State).rdValid = true ∧
    (received frameP1).rxFull = true ∧ (built 4).txPend = true ∧ (built 5).txPend = false ∧
    ({ received frameP1 with result := 4 } : State).rdErr = true := by decide
/-- Each row of the opcode table runs as the first step after reset. -/
theorem test_withFetchWord : [0x00000000, 0x1001423F, 0x20000000, 0x30000011, 0x40000000, 0x50000000, 0x60000000].all
    (fun w => nextOf (step (State.reset.withFetchWord 32 w)) ==
      ((decodeTableWord 32 w).bind fun i => nextOf (exec i State.reset))) = true := by decide

/-! ## Witnesses: the hypotheses of the statements can be met -/

/-- A reachable-looking state with everything in it: a frame partly sent, a full buffer, an accepted reading. -/
def busy (ptr : BitVec 3) : State :=
  { received frameP1 with txbuf := (built ptr).txbuf, txptr := ptr, result := 1, mag := 125, sval := 125, dp := 2 }

theorem busy_inv {ptr : BitVec 3} (h : ptr.toNat ≤ 5) : (busy ptr).Inv where
  txbuf_wf := (by decide : Memory.wf 5 (built 0).txbuf)
  rxbuf_wf := (by decide : Memory.wf 10 (received frameP1).rxbuf)
  txptr_le := h
  rxcnt_le := (by decide : (received frameP1).rxcnt.toNat ≤ 10)
  result_le := (by decide : (1 : BitVec 3).toNat ≤ 4)
  reading := fun _ _ => (by decide : (125 : BitVec 17).toNat ≤ 99999 ∧ (125 : BitVec 18) = (125 : BitVec 17).setWidth 18)
  rx_written := (by decide : ∀ i < (received frameP1).rxcnt.toNat, ((received frameP1).rxbuf.byteAt i).isSome)
  tx_built := fun _ => ⟨0x01, 0x42, 0x3F,
    (by decide : ∀ i < 5, (built 0).txbuf.byteAt i = (buildCommand Config.params 0x01 0x42 0x3F)[i]?)⟩

/-- The four judgements about a full buffer: header and terminator right, checksum right or wrong. -/
def goodHeader (s : State) : Prop :=
  10 ≤ s.rxcnt.toNat ∧ s.rxByte 0 = 0x11 ∧ s.rxByte 1 = 0x42 ∧ s.rxByte 9 = 0x0D
def goodChecksum (s : State) : Prop := ck7 Config.params ((List.range 8).map s.rxByte) = s.rxByte 8

theorem witness_IllegalWordSetsIllcmdOnly :
    (∃ (w : CmdWord) (s : State) (rest : List Event), s.pending = .command w :: rest ∧
      ∀ r ∈ opRows, w &&& r.2 ≠ r.1) ∧
    (∃ (s : State) (rest : List Event), s.pending = .reset :: rest) :=
  ⟨⟨0x70000000, State.reset.withPending [.command 0x70000000], [], rfl, by simp [opRows]⟩,
    State.reset.withPending [.reset], [], rfl⟩
theorem witness_DecodeOfEncodeIsTheOperation : (Instr.build 0xFF 0x00 0x80).wellFormed = true := by decide
theorem witness_EncodeOfDecodeIsTheWord : decode 0x300000FF = .ok (.rxpush 0xFF) := by decide
theorem witness_ResetEventFromAnyState : (State.withPending (busy 2) [.reset, .reset]).pending = .reset :: [.reset] := rfl
theorem witness_ResetEventForgetsTheBuffers : (State.withPending (busy 2) [.reset]).pending = .reset :: [] := rfl
theorem witness_StepRunsTheDecodedOperation :
    ((busy 4).withPending [.command 0x20000000, .reset]).pending = .command 0x20000000 :: [.reset] ∧
      decode 0x20000000 = .ok .txpop := by decide
theorem witness_NopLeavesTheState : (∃ w : CmdWord, w.extractLsb' 28 4 = 0 ∧ w ≠ 0) ∧
    decode 0x00000000 = .ok .nop := ⟨⟨0x01000000, by decide, by decide⟩, by decide⟩
theorem witness_Ck7AdjustsTheTerminatorValue : (0x0E : Byte) ≠ 0x0D ∧ (0x0E : Byte) ≠ Config.params.term := by decide
theorem witness_Ck7RangeAndOrderIndependence : List.Perm [0x0C, 0x42, 0x3F] ([0x42, 0x0C, 0x3F] : List Byte) :=
  .swap _ _ _
theorem witness_SingleByteChangeOfCk7 : (0x4A : Byte) ≠ 0x4B ∧
    sum7 Config.params ([0x11, 0x42, 0x30, 0x30, 0x30, 0x30, 0x30] ++ 0x4A :: []) = 0x0D ∧
    sum7 Config.params ([0x11, 0x42, 0x30, 0x30, 0x30, 0x30, 0x30] ++ 0x4B :: []) = 0x0E := by decide
theorem witness_BuildStoresTheCommandFrame : 5 ≤ 5 ∧ (0x10FFFFFF : CmdWord).extractLsb' 24 8 = 0x10 := by decide
theorem witness_BuiltFrameHasItsChecksumAndTerminator :
    (∃ t : State, exec (.build 0x0D 0x42 0x3F) (busy 3) = .next t) ∧ 2 < 3 := ⟨⟨_, rfl⟩, by decide⟩
theorem witness_TxpopEmitsTheNextByte : (busy 0).Inv ∧ (busy 4).Inv ∧ (busy 4).txptr.toNat < 5 ∧
    5 ≤ (busy 5).txptr.toNat := ⟨busy_inv (by decide), busy_inv (by decide), by decide, by decide⟩
theorem witness_TxclrDropsThePendingFrame : (busy 5).txptr = 5 := rfl

/-- Five TXPOP with a NOP, an RXPUSH and an illegal word among them. -/
def popEvents : List Event :=
  [.command 0x20000000, .command 0x00000000, .command 0x20000000, .command 0x30000011, .command 0x20000000,
    .command 0x70000000, .command 0x20000000, .command 0x20000000]

theorem witness_FiveTxpopsSendTheBuiltFrame :
    ((busy 2).withPending (.command (encode (.build 0x0C 0x42 0x3F)) :: popEvents ++ [.reset])).pending =
      .command (encode (.build 0x0C 0x42 0x3F)) :: popEvents ++ [.reset] ∧
    (∀ e ∈ popEvents, e ≠ .reset ∧ e.decoded ≠ some .txclr ∧ ∀ a' c' p', e.decoded ≠ some (.build a' c' p')) ∧
    popEvents.countP (fun e => e.decoded == some .txpop) = 5 := by
  refine ⟨rfl, ?_, by decide⟩
  have h : ∀ e ∈ popEvents, e ≠ .reset ∧ e.decoded ∈ [none, some .nop, some .txpop, some (.rxpush 0x11)] := by decide
  intro e he
  obtain ⟨h1, h2⟩ := h e he
  refine ⟨h1, ?_, ?_⟩
  · intro hd
    rw [hd] at h2
    exact absurd h2 (by decide)
  · intro a c p hd
    rw [hd] at h2
    simp at h2

theorem witness_RxpushStoresTheByte : (received (frameP1.take 9)).rxcnt.toNat < 10 ∧ (received []).rxcnt.toNat < 10 ∧
    10 ≤ (received frameP1).rxcnt.toNat ∧ (0x300000FF : CmdWord).extractLsb' 8 24 = 0x300000 := by decide
theorem witness_OverflowDropsTheByteAndSticks : (received frameP1).rxcnt = 10 ∧
    ∃ t : State, exec (.rxpush 0x41) { received frameP1 with rxOvf := true } = .next t ∧
      Instr.rxpush 0x41 ≠ .rxclr := ⟨by decide, _, rfl, by decide⟩
theorem witness_ParseResponseJudgesInOrder :
    (frameP1.take 9).length < 10 ∧
    (∃ bs : List Byte, 10 ≤ bs.length ∧ (bs[0]? ≠ some 0x11 ∨ bs[1]? ≠ some 0x42 ∨ bs[9]? ≠ some 0x0D)) ∧
    (∃ bs : List Byte, 10 ≤ bs.length ∧ bs[0]? = some 0x11 ∧ bs[1]? = some 0x42 ∧ bs[9]? = some 0x0D ∧
      some (ck7 Config.params (bs.take 8)) ≠ bs[8]?) ∧
    (10 ≤ frameP1.length ∧ frameP1[0]? = some 0x11 ∧ frameP1[1]? = some 0x42 ∧ frameP1[9]? = some 0x0D ∧
      some (ck7 Config.params (frameP1.take 8)) = frameP1[8]?) :=
  ⟨by decide, ⟨frameP1.set 9 0x8D, by decide⟩, ⟨frameP1.set 8 0x4C, by decide⟩, by decide⟩
theorem witness_ParseRejectsShortBuffers :
    (received (frameP1.take 9)).rxcnt.toNat < 10 ∧ (received []).rxcnt.toNat < 10 := by decide
theorem witness_ParseRejectsWrongHeaderOrTerminator :
    (10 ≤ (received (frameP1.set 0 0x10)).rxcnt.toNat ∧ (received (frameP1.set 0 0x10)).rxByte 0 ≠ 0x11) ∧
    (received (frameP1.set 1 0x43)).rxByte 1 ≠ 0x42 ∧ (received (frameP1.set 9 0x0A)).rxByte 9 ≠ 0x0D := by decide
theorem witness_ParseRejectsWrongChecksum :
    goodHeader (received (frameP1.set 8 0x4C)) ∧ ¬goodChecksum (received (frameP1.set 8 0x4C)) ∧
    0x80 ≤ (0x80 : Byte).toNat := by
  unfold goodHeader goodChecksum
  decide
theorem witness_ParseReportsTheFirstFailure :
    (∃ t : State, exec .parse (received frameP1) = .next t ∧ t.result = 1) ∧
    (∃ t : State, exec .parse (received []) = .next t ∧ t.result ≠ 1) :=
  ⟨⟨_, rfl, by decide⟩, ⟨_, rfl, by decide⟩⟩

/-- V-P14, whose masked sum is 0x0D. -/
def frameP14 : List Byte := [0x11, 0x42, 0x30, 0x30, 0x30, 0x30, 0x30, 0x4A, 0x0E, 0x0D]

theorem witness_SingleByteErrorDetection :
    (∃ r : Reading, parseResponse Config.params 0 frameP14 = .ok r) ∧ frameP14.length = 10 ∧
    (0x10 : Byte) ≠ frameP14[0] ∧ (0x8D : Byte) ≠ frameP14[9] ∧ (0x0D : Byte) ≠ frameP14[8] ∧
    ((0x31 : Byte) ≠ frameP14[2] ∧ sum7 Config.params ((frameP14.set 2 0x31).take 8) = 0x0E) ∧
    ((0x32 : Byte) ≠ frameP14[2] ∧ sum7 Config.params ((frameP14.set 2 0x32).take 8) = 0x0F) ∧
    ((0x4B : Byte) ≠ frameP14[7] ∧ sum7 Config.params (frameP14.take 8) = 0x0D ∧
      sum7 Config.params ((frameP14.set 7 0x4B).take 8) = 0x0E) ∧
    ((0xCA : Byte) ≠ frameP14[7] ∧ ((0xCA : Byte).toNat : Int) - frameP14[7].toNat = 128) :=
  ⟨⟨_, rfl⟩, by decide⟩
theorem witness_Bit7ErrorsPassTheChecks : frameP1.length = 10 ∧
    ∃ r : Reading, parseResponse Config.params 0 frameP1 = .ok r ∧ r.rng = false :=
  ⟨by decide, _, rfl, by decide⟩
theorem witness_SyntheticResponseRoundTrip : (0 : Nat) ≤ 9 ∧ (9 : Nat) ≤ 9 := by decide
theorem witness_BufferReadsHaveNoSideEffect :
    (∃ t : State, exec .txpop (busy 4) = .next t) ∧ ∃ t : State, exec .parse (received frameP1) = .next t :=
  ⟨⟨_, rfl⟩, ⟨_, rfl⟩⟩
theorem witness_DigitBytesAreAsciiDigits : isDigit Config.params 0x30 = true ∧ isDigit Config.params 0x39 = true := by
  decide
theorem witness_ParseDecodesDigitFrames : goodHeader (received frameP1) ∧ goodChecksum (received frameP1) ∧
    ∀ off ≤ 6, 2 ≤ off → 0x30 ≤ ((received frameP1).rxByte off).toNat ∧ ((received frameP1).rxByte off).toNat ≤ 0x39 := by
  unfold goodHeader goodChecksum
  decide

/-- V-P13, with a byte that is no digit. -/
def frameP13 : List Byte := [0x11, 0x42, 0x30, 0x30, 0xB1, 0x32, 0x35, 0x02, 0x4D, 0x0D]

theorem witness_ParseFlagsNonDigitFrames : goodHeader (received frameP13) ∧ goodChecksum (received frameP13) ∧
    ¬(0x30 ≤ ((received frameP13).rxByte 4).toNat ∧ ((received frameP13).rxByte 4).toNat ≤ 0x39) := by
  unfold goodHeader goodChecksum
  decide
theorem witness_AcceptanceTakesStatusBits :
    ∃ t : State, exec .parse (received frameP13) = .next t ∧ t.result = 1 := ⟨_, rfl, by decide⟩
theorem witness_DrawsReachOnlyTheUnspecifiedValues :
    (∃ t : State, exec .parse (received []) = .next t ∧ t.result ≠ 1) ∧
    ∃ t : State, exec .parse (received frameP1) = .next t ∧ t.result = 1 ∧ t.digitRange = false :=
  ⟨⟨_, rfl, by decide⟩, ⟨_, rfl, by decide, by decide⟩⟩
theorem witness_ReadingStandsForASignedDecimal :
    ((busy 5).Inv ∧ (busy 5).result = 1 ∧ (busy 5).digitRange = false) ∧
    ({ busy 5 with digitRange := true } : State).digitRange = true :=
  ⟨⟨busy_inv (by decide), rfl, rfl⟩, rfl⟩

/-- V-P4, negative zero. -/
def frameP4 : List Byte := [0x11, 0x42, 0x30, 0x30, 0x30, 0x30, 0x30, 0x04, 0x47, 0x0D]

theorem witness_NegativeZeroIsDelivered : goodHeader (received frameP4) ∧ goodChecksum (received frameP4) ∧
    (∀ off ≤ 6, 2 ≤ off → (received frameP4).rxByte off = 0x30) ∧ ((received frameP4).rxByte 7).getLsbD 2 = true := by
  unfold goodHeader goodChecksum
  decide

/-- V-P11: V-P1 with the status bits 7:3 all set. -/
def frameP11 : List Byte := [0x11, 0x42, 0x30, 0x30, 0x31, 0x32, 0x35, 0xFA, 0x45, 0x0D]

theorem witness_StatusBits73AreIgnored : frameP1.length = 10 ∧ frameP11.length = 10 ∧
    (∃ r : Reading, parseResponse Config.params 0 frameP1 = .ok r) ∧
    (∃ r : Reading, parseResponse Config.params 0 frameP11 = .ok r) ∧
    (∀ off ≤ 6, 2 ≤ off → frameP1[off]? = frameP11[off]?) ∧ frameP1[7]? ≠ frameP11[7]? ∧
    (frameP1[7]?.map fun st => st.extractLsb' 0 3) = (frameP11[7]?.map fun st => st.extractLsb' 0 3) :=
  ⟨by decide, by decide, ⟨_, rfl⟩, ⟨_, rfl⟩, by decide⟩
theorem witness_MagnitudeFormsAgreeOnDigits :
    ∀ b ∈ digitBytes Config.params frameP1, isDigit Config.params b = true := by decide
theorem witness_EveryStepKeepsTheInvariant :
    (busy 4).Inv ∧ ∃ t : State, step (busy 4) = .next t := ⟨busy_inv (by decide), _, rfl⟩
theorem witness_ItemsChangeOnlyByTheirWriters :
    (∃ t : State, exec (.build 1 2 3) (busy 4) = .next t ∧ t.txbuf ≠ (busy 4).txbuf ∧ t.txptr ≠ (busy 4).txptr) ∧
    (∃ t : State, exec .txpop (busy 4) = .next t ∧ t.txd ≠ (busy 4).txd) ∧
    (∃ t : State, exec (.rxpush 1) (received []) = .next t ∧ t.rxbuf ≠ (received []).rxbuf ∧
      t.rxcnt ≠ (received []).rxcnt) ∧
    (∃ t : State, exec .parse (received frameP1) = .next t ∧ t.result ≠ (received frameP1).result ∧
      t.mag ≠ (received frameP1).mag) ∧
    (∃ t : State, exec (.rxpush 1) (received frameP1) = .next t ∧ t.rxOvf ≠ (received frameP1).rxOvf) :=
  ⟨⟨_, rfl, by decide⟩, ⟨_, rfl, by decide⟩, ⟨_, rfl, by decide⟩, ⟨_, rfl, by decide⟩, ⟨_, rfl, by decide⟩⟩
theorem witness_TxwireRecordsTheEmittedBytes :
    (∃ s t : State, step s = .next t ∧ s.pending.head?.bind Event.decoded = some .txpop ∧ s.txptr.toNat < 5) ∧
    (∃ s t : State, step s = .next t ∧
      ¬(s.pending.head?.bind Event.decoded = some .txpop ∧ s.txptr.toNat < 5)) :=
  ⟨⟨(busy 4).withPending [.command 0x20000000], _, rfl, by decide⟩,
    ⟨(busy 4).withPending [.reset], _, rfl, by decide⟩⟩
theorem witness_StatusOutputsFallOnlyAtTheirClears :
    (∃ s t : State, step s = .next t ∧ s.rdValid = true ∧ t.rdValid = false) ∧
    (∃ s t : State, step s = .next t ∧ s.rdErr = true ∧ t.rdErr = false) ∧
    (∃ s t : State, step s = .next t ∧ s.rxOvf = true ∧ t.rxOvf = false) ∧
    (∃ s t : State, step s = .next t ∧ s.illcmd = true ∧ t.illcmd = false) :=
  ⟨⟨(busy 4).withPending [.command 0x50000000], _, rfl, by decide⟩,
    ⟨{ received frameP1 with result := 2, pending := [.command 0x40000000] }, _, rfl, by decide⟩,
    ⟨{ received frameP1 with rxOvf := true, pending := [.command 0x50000000] }, _, rfl, by decide⟩,
    ⟨{ received frameP1 with illcmd := true, pending := [.reset] }, _, rfl, by decide⟩⟩
theorem witness_UnwrittenBytesAreNeverUsed : ∃ s s' t t' : State, s.Inv ∧ s.sameButUnwritten s' ∧ s ≠ s' ∧
    step s = .next t ∧ step s' = .next t' :=
  ⟨busy 4, { busy 4 with resets := 1 }, _, _, busy_inv (by decide), rfl, by decide, rfl, rfl⟩

/-- The pushes of `bs` after a NOP and an illegal word. -/
def pushEvents (bs : List Byte) : List Event :=
  .command 0x00000000 :: .command 0x70000000 :: bs.map fun b => .command (encode (.rxpush b))

/-- No, nine, ten and eleven pushes: both sides of the length check and of the overflow. -/
theorem witness_ReceivedBytesAreJudgedInOrder :
    ∀ bs ∈ [[], frameP1.take 9, frameP1, frameP1 ++ [0x41]],
      ((busy 2).withPending
          (.command (encode .rxclr) :: pushEvents bs ++ .command (encode .parse) :: [.reset])).pending =
        .command (encode .rxclr) :: pushEvents bs ++ .command (encode .parse) :: [.reset] ∧
      (∀ e ∈ pushEvents bs, e ≠ .reset ∧ e.decoded ≠ some .rxclr) ∧
      (pushEvents bs).filterMap Event.pushed = bs := by decide
theorem witness_PollingTickSendsReadAndJudgesResponse :
    ((busy 2).withPending (asmEvents (pollTick 0x0C (frameP1.take 9)) ++ [.reset])).pending =
      asmEvents (pollTick 0x0C (frameP1.take 9)) ++ [.reset] ∧ (frameP1.take 9).length < 10 ∧
    ((busy 2).withPending (asmEvents (pollTick 0x0C frameP1) ++ [])).pending =
      asmEvents (pollTick 0x0C frameP1) ++ [] ∧ ¬frameP1.length < 10 := ⟨rfl, by decide, rfl, by decide⟩
theorem witness_StopSequenceEmptiesBothSides :
    ((busy 2).withPending (asmEvents stopSequence ++ [.reset])).pending = asmEvents stopSequence ++ [.reset] := rfl

end Sys2Proof.Tests
end

section
/-! SUPPORT. The family of 10_state.md: the derived outputs, the reset values, and the recording `txwire`. -/

namespace Sys2Proof.Machine

/-! ## The derived outputs (R20) -/

theorem State.rdValid_iff (s : State) : s.rdValid = true ↔ s.result = 1 := beq_iff_eq

theorem State.rdErr_iff (s : State) : s.rdErr = true ↔ s.result = 2 ∨ s.result = 3 ∨ s.result = 4 := by
  simp only [rdErr, resultTooShort, resultMalformed, resultCkMismatch, Bool.or_eq_true, beq_iff_eq, or_assoc]

theorem State.txPend_iff (s : State) : s.txPend = true ↔ s.txptr.toNat < 5 := decide_eq_true_iff

theorem State.rxFull_iff (s : State) : s.rxFull = true ↔ s.rxcnt = 10 := by
  have hnat : s.rxFull = true ↔ s.rxcnt.toNat = (10#4).toNat := beq_iff_eq
  exact hnat.trans BitVec.toNat_inj

/-! ## What the event presented makes a step do -/

/-- A byte of `TXBUF` does not depend on what the environment will present. -/
@[simp] theorem State.txByte_withPending (s : State) (rest : List Event) (off : Nat) :
    (s.withPending rest).txByte off = s.txByte off :=
  congrFun (txByte_congr rfl rfl) off

theorem Event.decoded_command_of_ok {w : CmdWord} {i : Instr} (h : decode w = .ok i) :
    (Event.command w).decoded = some i := by
  simp [decoded, h]

theorem Event.decoded_command_of_error {w : CmdWord} {e : IllegalWord} (h : decode w = .error e) :
    (Event.command w).decoded = none := by
  simp [decoded, h]

/-- A step either executes the operation presented, or none is presented and the step changes no recorded byte. -/
theorem step_exec_or_txwire_eq {s t : State} (h : step s = .next t) :
    (∃ i rest, s.pending.head?.bind Event.decoded = some i ∧ exec i (s.withPending rest) = .next t) ∨
    (s.pending.head?.bind Event.decoded = none ∧ t.txwire = s.txwire) := by
  obtain ⟨hp, rfl⟩ | ⟨rest, hp, rfl⟩ | ⟨w, e, rest, hp, hd, rfl⟩ | ⟨w, i, rest, hp, hd, hx⟩ := step_next h
  · exact .inr ⟨by simp [hp], rfl⟩
  · exact .inr ⟨by simp [hp, Event.decoded], rfl⟩
  · exact .inr ⟨by simp [hp, Event.decoded_command_of_error hd], rfl⟩
  · exact .inl ⟨i, rest, by simp [hp, Event.decoded_command_of_ok hd], hx⟩

/-! ## What is recorded in `txwire` (R21) -/

theorem execRxpush_txwire {b : Byte} {s t : State} (h : execRxpush b s = .next t) : t.txwire = s.txwire := by
  obtain ⟨-, rfl⟩ | ⟨-, rfl⟩ := execRxpush_next h <;> rfl

theorem execParse_txwire {s t : State} (h : execParse s = .next t) : t.txwire = s.txwire := by
  obtain ⟨-, rfl⟩ | ⟨-, -, rfl⟩ | ⟨-, -, -, rfl⟩ | ⟨-, -, -, rfl⟩ := execParse_next h <;> rfl

/-- TXPOP is the only operation that emits. -/
theorem exec_txwire_of_ne_txpop {i : Instr} (hi : i ≠ .txpop) {s t : State} (h : exec i s = .next t) :
    t.txwire = s.txwire := by
  cases i with
  | nop => rw [execNop_next h]
  | build a c p => rw [execBuild_next h]
  | txpop => exact absurd rfl hi
  | rxpush b => exact execRxpush_txwire h
  | parse => exact execParse_txwire h
  | rxclr => rw [execRxclr_next h]
  | txclr => rw [execTxclr_next h]

theorem execTxpop_txwire_of_lt {s t : State} (h : execTxpop s = .next t) (hp : s.txptr.toNat < 5) :
    t.txwire = s.txwire ++ [s.txByte s.txptr.toNat] := by
  obtain ⟨-, rfl⟩ | ⟨hge, -⟩ := execTxpop_next h
  · rfl
  · omega

theorem execTxpop_eq_of_le {s t : State} (h : execTxpop s = .next t) (hp : 5 ≤ s.txptr.toNat) : t = s := by
  obtain ⟨hlt, -⟩ | ⟨-, ht⟩ := execTxpop_next h
  · omega
  · exact ht

/-- A step with a TXPOP presented and a frame pending appends the byte at `TXPTR`. -/
theorem step_txwire_of_txpop {s t : State} (h : step s = .next t)
    (hd : s.pending.head?.bind Event.decoded = some .txpop) (hp : s.txptr.toNat < 5) :
    t.txwire = s.txwire ++ [s.txByte s.txptr.toNat] := by
  obtain ⟨i, rest, hi, hx⟩ | ⟨hn, -⟩ := step_exec_or_txwire_eq h
  · obtain rfl : i = .txpop := Option.some.inj (hi.symm.trans hd)
    simpa using execTxpop_txwire_of_lt hx hp
  · simp [hn] at hd

/-- Every other step leaves `txwire` as it is. -/
theorem step_txwire_of_not_txpop {s t : State} (h : step s = .next t)
    (hno : ¬(s.pending.head?.bind Event.decoded = some .txpop ∧ s.txptr.toNat < 5)) : t.txwire = s.txwire := by
  obtain ⟨i, rest, hi, hx⟩ | ⟨-, ht⟩ := step_exec_or_txwire_eq h
  · by_cases htx : i = .txpop
    · subst htx
      have hle : 5 ≤ s.txptr.toNat := Nat.le_of_not_lt fun hp => hno ⟨hi, hp⟩
      rw [execTxpop_eq_of_le hx hle, State.withPending_txwire]
    · exact (exec_txwire_of_ne_txpop htx hx).trans (State.withPending_txwire s rest)
  · exact ht

/-! ## The statements -/

/-- Settles O50: TXPOP with a frame pending is the one step that emits, by the cases of a step and of an operation. -/
theorem txwireRecordsTheEmittedBytes : Obligations.TxwireRecordsTheEmittedBytes :=
  ⟨rfl, fun _ _ h => ⟨fun ⟨hd, hp⟩ => step_txwire_of_txpop h hd hp, step_txwire_of_not_txpop h⟩⟩

/-- Settles O8: each register of the reset state is the literal of R26, and the outputs compute from them. -/
theorem resetLeavesTheValuesOfTheSpec : Obligations.ResetLeavesTheValuesOfTheSpec :=
  ⟨rfl, rfl, rfl, rfl, rfl, rfl, rfl, rfl, rfl, rfl, rfl, rfl, rfl, rfl, rfl⟩

/-- Settles O52: one characterisation per output. -/
theorem derivedOutputs : Obligations.DerivedOutputs :=
  fun s => ⟨s.rdValid_iff, s.rdErr_iff, s.txPend_iff, s.rxFull_iff⟩

end Sys2Proof.Machine
end

section
/-! SUPPORT. The family of 20_memory.md: reading the buffers changes nothing (R36). -/

namespace Sys2Proof.Machine

/-! ## The frame in `RXBUF` is out of reach of PARSE's verdict -/

@[simp] theorem State.rxFrame_reject (s : State) (code : BitVec 3) : (s.reject code).rxFrame = s.rxFrame :=
  rxFrame_congr rfl rfl

@[simp] theorem State.rxFrame_accept (s : State) (r : Reading) : (s.accept r).rxFrame = s.rxFrame :=
  rxFrame_congr rfl rfl

/-! ## PARSE, one equation per verdict (R89) -/

theorem execParse_of_short {s : State} (hc : s.rxcnt.toNat < 10) : execParse s = .next (s.reject resultTooShort) :=
  if_pos hc

theorem execParse_of_badHeader {s : State} (hc : 10 ≤ s.rxcnt.toNat)
    (hh : badHeader Config.params s.rxFrame = true) : execParse s = .next (s.reject resultMalformed) :=
  (if_neg (Nat.not_lt.2 hc)).trans (if_pos hh)

theorem execParse_of_badChecksum {s : State} (hc : 10 ≤ s.rxcnt.toNat)
    (hh : badHeader Config.params s.rxFrame = false) (hk : badChecksum Config.params s.rxFrame = true) :
    execParse s = .next (s.reject resultCkMismatch) :=
  (if_neg (Nat.not_lt.2 hc)).trans ((if_neg (Bool.eq_false_iff.1 hh)).trans (if_pos hk))

theorem execParse_of_valid {s : State} (hc : 10 ≤ s.rxcnt.toNat)
    (hh : badHeader Config.params s.rxFrame = false) (hk : badChecksum Config.params s.rxFrame = false) :
    execParse s = .next (s.accept (decodeReading Config.params s.pushes s.rxFrame)) :=
  (if_neg (Nat.not_lt.2 hc)).trans ((if_neg (Bool.eq_false_iff.1 hh)).trans (if_neg (Bool.eq_false_iff.1 hk)))

/-! ## What reading a buffer leaves unchanged -/

theorem execTxpop_txbuf {s t : State} (h : execTxpop s = .next t) : t.txbuf = s.txbuf := by
  obtain ⟨-, rfl⟩ | ⟨-, rfl⟩ := execTxpop_next h <;> rfl

theorem execParse_rxbuf {s t : State} (h : execParse s = .next t) : t.rxbuf = s.rxbuf := by
  obtain ⟨-, rfl⟩ | ⟨-, -, rfl⟩ | ⟨-, -, -, rfl⟩ | ⟨-, -, -, rfl⟩ := execParse_next h <;> rfl

theorem execParse_rxcnt {s t : State} (h : execParse s = .next t) : t.rxcnt = s.rxcnt := by
  obtain ⟨-, rfl⟩ | ⟨-, -, rfl⟩ | ⟨-, -, -, rfl⟩ | ⟨-, -, -, rfl⟩ := execParse_next h <;> rfl

/-- The state PARSE leaves gets the same verdict again: the checks read `RXCNT` and the frame, the draws are indexed by
`pushes`, and a verdict writes none of these. Writing the same verdict twice is writing it once. -/
theorem execParse_repeat {s t : State} (h : execParse s = .next t) : execParse t = .next t := by
  obtain ⟨hc, rfl⟩ | ⟨hc, hh, rfl⟩ | ⟨hc, hh, hk, rfl⟩ | ⟨hc, hh, hk, rfl⟩ := execParse_next h
  · exact execParse_of_short hc
  · exact execParse_of_badHeader hc (by rwa [State.rxFrame_reject])
  · exact execParse_of_badChecksum hc (by rwa [State.rxFrame_reject]) (by rwa [State.rxFrame_reject])
  · have hvalid := execParse_of_valid (s := s.accept (decodeReading Config.params s.pushes s.rxFrame)) hc
      (by rwa [State.rxFrame_accept]) (by rwa [State.rxFrame_accept])
    rw [State.rxFrame_accept, State.accept_pushes] at hvalid
    exact hvalid

/-! ## Operations that cannot be repeated -/

/-- With a frame pending TXPOP always changes the state: `txwire` grows. -/
theorem execTxpop_ne_next_self {s : State} (hp : s.txptr.toNat < 5) : execTxpop s ≠ .next s := by
  intro h
  have hgrows := execTxpop_txwire_of_lt h hp
  simp at hgrows

/-- RXPUSH always changes the state while the buffer has room: the count of stored bytes grows. -/
theorem execRxpush_ne_next_self {b : Byte} {s : State} (hc : s.rxcnt.toNat < 10) : execRxpush b s ≠ .next s := by
  intro h
  obtain ⟨-, ht⟩ | ⟨hfull, -⟩ := execRxpush_next h
  · exact absurd (congrArg State.pushes ht) (Nat.ne_add_one s.pushes)
  · omega

/-! ## The statement -/

/-- Settles O37: the frames of TXPOP and PARSE and PARSE's idempotence hold in every state; a second TXPOP on the frame
BUILD has just written, and a second RXPUSH into an empty buffer, change the state again. -/
theorem bufferReadsHaveNoSideEffect : Obligations.BufferReadsHaveNoSideEffect := by
  refine ⟨fun _ _ h => execTxpop_txbuf h,
    fun _ _ h => ⟨execParse_rxbuf h, execParse_rxcnt h, execParse_repeat h⟩, ?txpop, ?rxpush⟩
  case txpop =>
    exact ⟨{ State.reset.writeTxFrame (buildCommand Config.params 0x01 0x42 0x3F) with txptr := 0 }, _, rfl,
      execTxpop_ne_next_self (by decide)⟩
  case rxpush =>
    exact ⟨0x41, State.reset, _, rfl, execRxpush_ne_next_self (by decide)⟩

end Sys2Proof.Machine
end

section
/-! SUPPORT. The family of 30_encoding.md: the words of the operation map (R47, R48), illegal words (R49, R148), and
the words of assembled lines (R57, R58). -/

namespace Sys2Proof

/-! ## The decoder is the inverse of the encoder -/

/-- A legal word's fields (`decode_ok`) are all that the decoder looks at. -/
theorem decode_ok_iff_fields {w : CmdWord} {i : Instr} : decode w = .ok i ↔
    opField w = i.opCode ∧ mbzField w = 0 ∧ (b2Field w, b1Field w, b0Field w) = i.operandBytes := by
  refine ⟨decode_ok, fun ⟨ho, hm, hb⟩ => ?_⟩
  cases i <;>
    simp_all [decode, noOperand, pushOperand, Instr.opCode, Instr.operandBytes]

theorem decode_encode (i : Instr) : decode (encode i) = .ok i :=
  decode_ok_iff_fields.2 (Laws.EncodedFields.of_fields i)

/-- Each operation has exactly one word (R47). -/
theorem decode_ok_iff_eq_encode {w : CmdWord} {i : Instr} : decode w = .ok i ↔ w = encode i := by
  refine ⟨fun h => ?_, fun h => h ▸ decode_encode i⟩
  obtain ⟨ho, hm, hb⟩ := decode_ok h
  obtain ⟨ho', hm', hb'⟩ := Laws.EncodedFields.of_fields i
  have hb'' := hb.trans hb'.symm
  simp only [Prod.mk.injEq] at hb''
  obtain ⟨h2, h1, h0⟩ := hb''
  exact cmdWord_ext (ho.trans ho'.symm) (hm.trans hm'.symm) h2 h1 h0

/-! ## Rows of the operation map, field by field (R47) -/

/-- A word selects a row exactly when each of its fields selects the row's field. -/
theorem and_eq_iff_fields {w mask m : CmdWord} : w &&& mask = m ↔
    opField w &&& opField mask = opField m ∧ mbzField w &&& mbzField mask = mbzField m ∧
      b2Field w &&& b2Field mask = b2Field m ∧ b1Field w &&& b1Field mask = b1Field m ∧
      b0Field w &&& b0Field mask = b0Field m := by
  simp only [opField, mbzField, b2Field, b1Field, b0Field, ← BitVec.extractLsb'_and]
  exact ⟨fun h => h ▸ ⟨rfl, rfl, rfl, rfl, rfl⟩, fun ⟨ho, hm, h2, h1, h0⟩ => cmdWord_ext ho hm h2 h1 h0⟩

/-- A row whose mask keeps every bit selects the one word of its operation. -/
theorem and_ones_eq_encode_iff {w : CmdWord} {i : Instr} : w &&& 0xFFFFFFFF#32 = encode i ↔ decode w = .ok i := by
  rw [decode_ok_iff_eq_encode, show (0xFFFFFFFF#32) = BitVec.allOnes 32 from rfl, BitVec.and_allOnes]

theorem buildRow_iff_fields {w : CmdWord} :
    w &&& 0xFF000000#32 = 0x10000000#32 ↔ opField w = 1 ∧ mbzField w = 0 := by
  rw [and_eq_iff_fields]
  change opField w &&& .allOnes 4 = 1 ∧ mbzField w &&& .allOnes 4 = 0 ∧ b2Field w &&& 0#8 = 0 ∧
    b1Field w &&& 0#8 = 0 ∧ b0Field w &&& 0#8 = 0 ↔ _
  simp only [BitVec.and_allOnes, BitVec.and_zero, BitVec.ofNat_eq_ofNat, and_true]

theorem rxpushRow_iff_fields {w : CmdWord} : w &&& 0xFFFFFF00#32 = 0x30000000#32 ↔
    opField w = 3 ∧ mbzField w = 0 ∧ b2Field w = 0 ∧ b1Field w = 0 := by
  rw [and_eq_iff_fields]
  change opField w &&& .allOnes 4 = 3 ∧ mbzField w &&& .allOnes 4 = 0 ∧ b2Field w &&& .allOnes 8 = 0 ∧
    b1Field w &&& .allOnes 8 = 0 ∧ b0Field w &&& 0#8 = 0 ↔ _
  simp only [BitVec.and_allOnes, BitVec.and_zero, BitVec.ofNat_eq_ofNat, and_true]

theorem decode_build_iff_fields {w : CmdWord} {a c p : Byte} : decode w = .ok (.build a c p) ↔
    (opField w = 1 ∧ mbzField w = 0) ∧ b2Field w = a ∧ b1Field w = c ∧ b0Field w = p := by
  rw [decode_ok_iff_fields]
  simp [Instr.opCode, Instr.operandBytes, and_assoc]

theorem decode_rxpush_iff_fields {w : CmdWord} {b : Byte} : decode w = .ok (.rxpush b) ↔
    (opField w = 3 ∧ mbzField w = 0 ∧ b2Field w = 0 ∧ b1Field w = 0) ∧ b0Field w = b := by
  rw [decode_ok_iff_fields]
  simp [Instr.opCode, Instr.operandBytes, and_assoc]

theorem buildRow_iff_decode {w : CmdWord} : w &&& 0xFF000000#32 = 0x10000000#32 ↔
    decode w = .ok (.build (b2Field w) (b1Field w) (b0Field w)) := by
  simp [buildRow_iff_fields, decode_build_iff_fields]

theorem rxpushRow_iff_decode {w : CmdWord} : w &&& 0xFFFFFF00#32 = 0x30000000#32 ↔
    decode w = .ok (.rxpush (b0Field w)) := by
  simp [rxpushRow_iff_fields, decode_rxpush_iff_fields]

/-! ## Legal words (R48) -/

/-- Bits 23:0 are the three operand fields, bits 23:8 the upper two (R45). -/
theorem extractLsb'_low24_eq_zero_iff {w : CmdWord} :
    w.extractLsb' 0 24 = 0 ↔ b2Field w = 0 ∧ b1Field w = 0 ∧ b0Field w = 0 := by
  simp only [b2Field, b1Field, b0Field, ← BitVec.toNat_inj, BitVec.extractLsb'_toNat, Nat.shiftRight_eq_div_pow,
    Nat.reducePow, BitVec.ofNat_eq_ofNat, BitVec.toNat_ofNat, Nat.zero_mod]
  omega

theorem extractLsb'_mid16_eq_zero_iff {w : CmdWord} :
    w.extractLsb' 8 16 = 0 ↔ b2Field w = 0 ∧ b1Field w = 0 := by
  simp only [b2Field, b1Field, ← BitVec.toNat_inj, BitVec.extractLsb'_toNat, Nat.shiftRight_eq_div_pow,
    Nat.reducePow, BitVec.ofNat_eq_ofNat, BitVec.toNat_ofNat, Nat.zero_mod]
  omega

/-- The operations without operands (R47). -/
def operandlessInstrs : List Instr := [.nop, .txpop, .parse, .rxclr, .txclr]

theorem operandlessInstrs_fields :
    ∀ i ∈ operandlessInstrs, i.opCode.toNat ∈ [0, 2, 4, 5, 6] ∧ i.operandBytes = (0, 0, 0) := by decide

theorem opCode_of_le_six :
    ∀ op : BitVec 4, op.toNat ≤ 6 → op = 1 ∨ op = 3 ∨ ∃ i ∈ operandlessInstrs, op = i.opCode := by decide

/-- R48 in terms of the fields: the operation code is in use and what the operation does not use is zero. -/
theorem exists_decode_ok_iff_fields {w : CmdWord} : (∃ i, decode w = .ok i) ↔
    (opField w).toNat ≤ 6 ∧ mbzField w = 0 ∧
    ((opField w).toNat ∈ [0, 2, 4, 5, 6] → b2Field w = 0 ∧ b1Field w = 0 ∧ b0Field w = 0) ∧
    ((opField w).toNat = 3 → b2Field w = 0 ∧ b1Field w = 0) := by
  constructor
  · rintro ⟨i, h⟩
    obtain ⟨hop, hmbz, hbytes⟩ := decode_ok h
    rw [hop]
    cases i <;> simp_all [Instr.opCode, Instr.operandBytes]
  · rintro ⟨hle, hmbz, hplain, hpush⟩
    obtain hop | hop | ⟨i, hi, hop⟩ := opCode_of_le_six _ hle
    · exact ⟨.build (b2Field w) (b1Field w) (b0Field w), decode_build_iff_fields.2 ⟨⟨hop, hmbz⟩, rfl, rfl, rfl⟩⟩
    · exact ⟨.rxpush (b0Field w), decode_rxpush_iff_fields.2 ⟨⟨hop, hmbz, hpush (by simp [hop])⟩, rfl⟩⟩
    · obtain ⟨hcode, hzero⟩ := operandlessInstrs_fields i hi
      obtain ⟨h2, h1, h0⟩ := hplain (hop ▸ hcode)
      exact ⟨i, decode_ok_iff_fields.2 ⟨hop, hmbz, by rw [h2, h1, h0, hzero]⟩⟩

/-- Settles O2: the characterisation by fields, with adjacent zero fields read as one. -/
theorem legalWordsHaveZeroUnusedFields : Obligations.LegalWordsHaveZeroUnusedFields := by
  intro w
  rw [extractLsb'_low24_eq_zero_iff, extractLsb'_mid16_eq_zero_iff]
  exact exists_decode_ok_iff_fields

end Sys2Proof

namespace Sys2Proof.Machine

/-! ## Words and rows (R47, R49) -/

/-- Every mask keeps the whole operation code, and no two rows have the same one. -/
theorem opRows_mask_opField : ∀ r ∈ opRows, opField r.2 = BitVec.allOnes 4 := by
  simp [opRows, opField]

theorem opRows_pairwise_opField_ne : opRows.Pairwise fun x y => opField x.1 ≠ opField y.1 := by
  simp [opRows, opField]

theorem opField_of_selects {w : CmdWord} {r : CmdWord × CmdWord} (hr : r ∈ opRows) (h : w &&& r.2 = r.1) :
    opField w = opField r.1 := by
  obtain ⟨hop, -⟩ := and_eq_iff_fields.1 h
  rwa [opRows_mask_opField r hr, BitVec.and_allOnes] at hop

/-- Settles O1: a row compares the fields its operation does not read as an operand; two rows differ in the operation
code, which every mask keeps. -/
theorem operationMapRowsSelectOperations : Obligations.OperationMapRowsSelectOperations := by
  refine ⟨fun w => ⟨and_ones_eq_encode_iff (i := .nop), buildRow_iff_decode, and_ones_eq_encode_iff (i := .txpop),
    rxpushRow_iff_decode, and_ones_eq_encode_iff (i := .parse), and_ones_eq_encode_iff (i := .rxclr),
    and_ones_eq_encode_iff (i := .txclr)⟩, fun w => ?exclusive⟩
  case exclusive =>
    refine opRows_pairwise_opField_ne.imp_of_mem fun hx hy hne ⟨hselx, hsely⟩ => hne ?_
    exact (opField_of_selects hx hselx).symm.trans (opField_of_selects hy hsely)

/-- A legal word selects a row. -/
theorem exists_row_of_decode_ok {w : CmdWord} {i : Instr} (h : decode w = .ok i) : ∃ r ∈ opRows, w &&& r.2 = r.1 := by
  have ones : ∀ j : Instr, decode w = .ok j → (encode j, 0xFFFFFFFF#32) ∈ opRows → ∃ r ∈ opRows, w &&& r.2 = r.1 :=
    fun j hj hmem => ⟨_, hmem, and_ones_eq_encode_iff.2 hj⟩
  cases i with
  | nop => exact ones _ h (by decide)
  | build a c p => exact ⟨(0x10000000, 0xFF000000), by decide, buildRow_iff_fields.2 (decode_build_iff_fields.1 h).1⟩
  | txpop => exact ones _ h (by decide)
  | rxpush b => exact ⟨(0x30000000, 0xFFFFFF00), by decide, rxpushRow_iff_fields.2 (decode_rxpush_iff_fields.1 h).1⟩
  | parse => exact ones _ h (by decide)
  | rxclr => exact ones _ h (by decide)
  | txclr => exact ones _ h (by decide)

theorem decode_error_of_no_row {w : CmdWord} (h : ∀ r ∈ opRows, w &&& r.2 ≠ r.1) : ∃ e, decode w = .error e := by
  cases hd : decode w with
  | ok i =>
    obtain ⟨r, hr, hsel⟩ := exists_row_of_decode_ok hd
    exact absurd hsel (h r hr)
  | error e => exact ⟨e, rfl⟩

/-! ## `ILLCMD` (R49, R148) -/

theorem step_of_illegal {s : State} {w : CmdWord} {e : IllegalWord} {rest : List Event}
    (hp : s.pending = .command w :: rest) (hd : decode w = .error e) :
    step s = .next (s.withPending rest).illegalCommand := by
  simp only [step, hp, hd, takeIllegal]

theorem step_of_reset {s : State} {rest : List Event} (hp : s.pending = .reset :: rest) :
    step s = .next (s.withPending rest).resetEvent := by
  simp only [step, hp, takeReset]

/-- The state with `ILLCMD` at `v`. -/
def State.withIllcmd (s : State) (v : Bool) : State := { s with illcmd := v }

/-- An operation that answers a next state whatever `ILLCMD` is, leaves it and does not look at it. -/
def IgnoresIllcmd (f : State → Outcome) : Prop :=
  ∀ s : State, ∃ t : State, f s = .next t ∧ t.illcmd = s.illcmd ∧
    ∀ v : Bool, f (s.withIllcmd v) = .next (t.withIllcmd v)

theorem execTxpop_ignoresIllcmd : IgnoresIllcmd execTxpop := by
  intro s
  by_cases hp : s.txptr.toNat < Config.params.cmdLen
  · exact ⟨_, if_pos hp, rfl, fun _ => if_pos hp⟩
  · exact ⟨_, if_neg hp, rfl, fun _ => if_neg hp⟩

theorem execRxpush_ignoresIllcmd (b : Byte) : IgnoresIllcmd (execRxpush b) := by
  intro s
  by_cases hc : s.rxcnt.toNat < Config.params.respLen
  · exact ⟨_, if_pos hc, rfl, fun _ => if_pos hc⟩
  · exact ⟨_, if_neg hc, rfl, fun _ => if_neg hc⟩

/-- PARSE reads `RXCNT`, the frame and `pushes`, which are the same in both states. -/
theorem execParse_ignoresIllcmd : IgnoresIllcmd execParse := by
  intro s
  have hframe (v : Bool) : (s.withIllcmd v).rxFrame = s.rxFrame := State.rxFrame_congr rfl rfl
  rcases Nat.lt_or_ge s.rxcnt.toNat 10 with hc | hc
  · exact ⟨_, execParse_of_short hc, rfl, fun _ => execParse_of_short hc⟩
  cases hh : badHeader Config.params s.rxFrame with
  | true => exact ⟨_, execParse_of_badHeader hc hh, rfl, fun v => execParse_of_badHeader hc (hframe v ▸ hh)⟩
  | false =>
    cases hk : badChecksum Config.params s.rxFrame with
    | true =>
      exact ⟨_, execParse_of_badChecksum hc hh hk, rfl,
        fun v => execParse_of_badChecksum hc (hframe v ▸ hh) (hframe v ▸ hk)⟩
    | false =>
      exact ⟨_, execParse_of_valid hc hh hk, rfl, fun v => execParse_of_valid hc (hframe v ▸ hh) (hframe v ▸ hk)⟩

theorem exec_ignoresIllcmd (i : Instr) : IgnoresIllcmd (exec i) := by
  cases i with
  | nop => exact fun _ => ⟨_, rfl, rfl, fun _ => rfl⟩
  | build a c p => exact fun _ => ⟨_, rfl, rfl, fun _ => rfl⟩
  | txpop => exact execTxpop_ignoresIllcmd
  | rxpush b => exact execRxpush_ignoresIllcmd b
  | parse => exact execParse_ignoresIllcmd
  | rxclr => exact fun _ => ⟨_, rfl, rfl, fun _ => rfl⟩
  | txclr => exact fun _ => ⟨_, rfl, rfl, fun _ => rfl⟩

/-- Settles O3: a word that selects no row does not decode, no operation reads or writes `ILLCMD`, and a reset event
gives it its reset value. -/
theorem illegalWordSetsIllcmdOnly : Obligations.IllegalWordSetsIllcmdOnly := by
  refine ⟨fun w s rest hp hno => ?illegal, exec_ignoresIllcmd, fun s rest hp => ⟨_, step_of_reset hp, rfl⟩⟩
  case illegal =>
    obtain ⟨e, hd⟩ := decode_error_of_no_row hno
    exact step_of_illegal hp hd

/-! ## Assembled lines (R57, R58) -/

@[simp] theorem asmByte_toNat (b : Byte) : asmByte b.toNat = b := by
  simp [asmByte]

@[simp] theorem decode_asmBuild (a c p : Nat) :
    decode (asmBuild a c p) = .ok (.build (asmByte a) (asmByte c) (asmByte p)) :=
  decode_encode (.build _ _ _)

@[simp] theorem decode_asmPush (b : Nat) : decode (asmPush b) = .ok (.rxpush (asmByte b)) :=
  decode_encode (.rxpush _)

/-- The word of an operation without operands is the one word with its operation code. -/
theorem decode_asmPlain {i : Instr} (hi : i ∈ operandlessInstrs) : decode (asmPlain i.opCode) = .ok i := by
  obtain ⟨-, hzero⟩ := operandlessInstrs_fields i hi
  have henc : asmPlain i.opCode = encode i := by simp only [asmPlain, encode, hzero]
  rw [henc, decode_encode]

theorem map_decode_asmPlain {i : Instr} (hi : i ∈ operandlessInstrs) : [asmPlain i.opCode].map decode = [.ok i] := by
  rw [List.map_singleton, decode_asmPlain hi]

/-- The pushes of a list of bytes decode to these pushes in order. -/
theorem map_decode_map_asmPush (bs : List Byte) :
    ((bs.map BitVec.toNat).map asmPush).map decode = bs.map fun b => .ok (.rxpush b) := by
  simp only [List.map_map, Function.comp_def, decode_asmPush, asmByte_toNat]

/-- Settles O7: each line's words are encodings, which decode to what they encode. -/
theorem assembledLinesDecodeToTheirExpansions : Obligations.AssembledLinesDecodeToTheirExpansions := by
  refine ⟨fun a c p => ⟨?build, ?rxpush, ?read, ?wake⟩, fun bs => ⟨?recv, ?recvFrame⟩, ?send, ?nop, ?txpop, ?parse,
    ?rxclr, ?txclr⟩
  case build => simp [assemble]
  case rxpush => simp [assemble]
  case read => simp [assemble, asmByte]
  case wake => simp [assemble, asmByte]
  case recv => exact map_decode_map_asmPush bs
  case recvFrame =>
    have hrxclr : decode (asmPlain 0x5) = .ok .rxclr := decode_asmPlain (i := .rxclr) (by decide)
    simp only [assemble, List.map_cons, hrxclr, map_decode_map_asmPush]
  case send =>
    have htxpop : decode (asmPlain 0x2) = .ok .txpop := decode_asmPlain (i := .txpop) (by decide)
    simp only [assemble, List.map_replicate, htxpop]
  case nop => exact map_decode_asmPlain (i := .nop) (by decide)
  case txpop => exact map_decode_asmPlain (i := .txpop) (by decide)
  case parse => exact map_decode_asmPlain (i := .parse) (by decide)
  case rxclr => exact map_decode_asmPlain (i := .rxclr) (by decide)
  case txclr => exact map_decode_asmPlain (i := .txclr) (by decide)

end Sys2Proof.Machine
end

section
/-! SUPPORT. The family of 40_checksum_and_nop.md: the checksum (R65 to R67), its laws (R68 to R70), and NOP (R71). -/

namespace Sys2Proof.Machine

/-! ## The exact sum (R65) -/

@[simp] theorem byteSum_nil : byteSum [] = 0 := rfl

@[simp] theorem byteSum_cons (b : Byte) (bs : List Byte) : byteSum (b :: bs) = b.toNat + byteSum bs := by
  simp [byteSum]

@[simp] theorem byteSum_append (bs bs' : List Byte) : byteSum (bs ++ bs') = byteSum bs + byteSum bs' := by
  simp [byteSum]

theorem byteSum_le (bs : List Byte) : byteSum bs ≤ 255 * bs.length := by
  induction bs with
  | nil => exact Nat.le_refl 0
  | cons b bs ih =>
    have hb : b.toNat < 256 := b.isLt
    simp only [byteSum_cons, List.length_cons]
    omega

theorem byteSum_perm {bs bs' : List Byte} (h : bs.Perm bs') : byteSum bs = byteSum bs' :=
  (h.map BitVec.toNat).sum_eq

/-! ## The masked sum (R65) -/

/-- The mask 0x7F keeps the remainder modulo 128. -/
theorem and_mask_eq_mod (n : Nat) : n &&& 0x7F = n % 128 := Nat.and_two_pow_sub_one_eq_mod n 7

theorem sum7_toNat (bs : List Byte) : (sum7 Config.params bs).toNat = byteSum bs % 128 := by
  calc (sum7 Config.params bs).toNat
    _ = (byteSum bs &&& 0x7F) % 256 := BitVec.toNat_ofNat _ _
    _ = byteSum bs % 128 := by rw [and_mask_eq_mod]; omega

theorem sum7_eq_iff {bs bs' : List Byte} :
    sum7 Config.params bs = sum7 Config.params bs' ↔ byteSum bs % 128 = byteSum bs' % 128 := by
  rw [← BitVec.toNat_inj, sum7_toNat, sum7_toNat]

/-- The other bytes of a list play no part in whether changing one byte keeps the masked sum. -/
theorem sum7_replace_eq_iff {pre post : List Byte} {b b' : Byte} :
    sum7 Config.params (pre ++ b' :: post) = sum7 Config.params (pre ++ b :: post) ↔
      b'.toNat % 128 = b.toNat % 128 := by
  simp only [sum7_eq_iff, byteSum_append, byteSum_cons]
  omega

theorem toNat_flipBit7_mod (b : Byte) : (b ^^^ 0x80).toNat % 128 = b.toNat % 128 := by
  calc (b ^^^ 0x80).toNat % 128
    _ = (b.toNat ^^^ 128) % 2 ^ 7 := by rw [BitVec.toNat_xor]; rfl
    _ = b.toNat % 128 ^^^ 0 := Nat.xor_mod_two_pow
    _ = b.toNat % 128 := Nat.xor_zero _

/-- Settles O14: the mask is the remainder modulo 128, which bit 7 of a byte does not reach. -/
theorem sum7IsTheExactSumModulo128 : Obligations.Sum7IsTheExactSumModulo128 :=
  ⟨fun bs => ⟨sum7_toNat bs, byteSum_le bs⟩, rfl, fun _ _ b => sum7_replace_eq_iff.2 (toNat_flipBit7_mod b)⟩

/-! ## The adjustment and the checksum (R66 to R68) -/

theorem adj_term (P : Params) : adj P P.term = P.term + 1 := if_pos rfl

theorem adj_of_ne {P : Params} {s : Byte} (h : s ≠ P.term) : adj P s = s := if_neg h

theorem adj_ne_term (P : Params) (s : Byte) : adj P s ≠ P.term := by
  by_cases h : s = P.term
  · simp [h, adj_term]
  · rwa [adj_of_ne h]

/-- `adj` merges the terminator with the value above it, and no other two values. -/
theorem adj_eq_adj_iff {P : Params} {s s' : Byte} : adj P s = adj P s' ↔
    s = s' ∨ (s' = P.term ∧ s = P.term + 1) ∨ (s' = P.term + 1 ∧ s = P.term) := by
  by_cases h : s = P.term <;> by_cases h' : s' = P.term
  · simp [h, h']
  · rw [h, adj_term, adj_of_ne h']
    simp [h', Ne.symm h', eq_comm]
  · rw [h', adj_term, adj_of_ne h]
    simp [h]
  · rw [adj_of_ne h, adj_of_ne h']
    simp [h, h']

theorem ck7_ne_term (P : Params) (bs : List Byte) : ck7 P bs ≠ P.term := adj_ne_term P (sum7 P bs)

theorem ck7_le (bs : List Byte) : (ck7 Config.params bs).toNat ≤ 0x7F := by
  by_cases h : sum7 Config.params bs = Config.params.term
  · rw [ck7, h]
    decide
  · rw [ck7, adj_of_ne h, sum7_toNat]
    omega

theorem ck7_perm (P : Params) {bs bs' : List Byte} (h : bs.Perm bs') : ck7 P bs = ck7 P bs' := by
  simp only [ck7, sum7, byteSum_perm h]

/-- Settles O16: `adj` keeps the seven bits and leaves out the terminator; a permutation keeps the sum. -/
theorem ck7RangeAndOrderIndependence : Obligations.Ck7RangeAndOrderIndependence :=
  ⟨fun bs => ⟨ck7_le bs, ck7_ne_term Config.params bs⟩, fun _ _ h => ck7_perm Config.params h, ck7_ne_term⟩

/-- Settles O15: the two branches of `adj`, for all parameters and at the defaults; the examples compute. -/
theorem ck7AdjustsTheTerminatorValue : Obligations.Ck7AdjustsTheTerminatorValue :=
  ⟨fun P => ⟨adj_term P, fun _ => adj_of_ne⟩, adj_term Config.params,
    fun _ => adj_of_ne (P := Config.params), fun _ => rfl, by decide, by decide⟩

/-! ## The accumulator form (R69) -/

/-- The accumulator from any start value, which the induction over the bytes needs. -/
theorem toNat_foldl_accumulate (bs : List Byte) (acc : BitVec 7) :
    (bs.foldl (fun acc b => acc + b.extractLsb' 0 7) acc).toNat = (acc.toNat + byteSum bs) % 128 := by
  induction bs generalizing acc with
  | nil => exact (Nat.mod_eq_of_lt acc.isLt).symm
  | cons b bs ih =>
    have hstep : (acc + b.extractLsb' 0 7).toNat = (acc.toNat + b.toNat) % 128 := by
      simp [BitVec.toNat_add]
    rw [List.foldl_cons, ih, hstep, byteSum_cons]
    omega

theorem sum7Acc_toNat (bs : List Byte) : (sum7Acc bs).toNat = byteSum bs % 128 := by
  rw [sum7Acc, toNat_foldl_accumulate]
  simp

theorem sum7Acc_setWidth (bs : List Byte) : (sum7Acc bs).setWidth 8 = sum7 Config.params bs := by
  rw [← BitVec.toNat_inj, BitVec.toNat_setWidth, sum7Acc_toNat, sum7_toNat]
  omega

/-- Settles O17: both forms are the sum modulo 128; the identity is that of remainders. -/
theorem sum7EqualsTheAccumulatorForm : Obligations.Sum7EqualsTheAccumulatorForm := by
  refine ⟨sum7Acc_setWidth, fun x y => ?identity⟩
  case identity =>
    simp only [and_mask_eq_mod]
    exact Nat.add_mod x y 128

/-! ## A single changed byte (R70) -/

/-- Two bytes agree modulo 128 exactly when at most bit 7 differs. -/
theorem byte_mod_eq_iff {b b' : Byte} (hne : b ≠ b') : b'.toNat % 128 = b.toNat % 128 ↔
    (b'.toNat : Int) - b.toNat = 128 ∨ (b'.toNat : Int) - b.toNat = -128 := by
  have hnat : b.toNat ≠ b'.toNat := mt BitVec.eq_of_toNat_eq hne
  have hb : b.toNat < 256 := b.isLt
  have hb' : b'.toNat < 256 := b'.isLt
  omega

/-- Settles O18: the checksums agree when `adj` merges the masked sums, and unmerged sums agree when the two bytes do
modulo 128. -/
theorem singleByteChangeOfCk7 : Obligations.SingleByteChangeOfCk7 := by
  intro pre post b b' hne
  exact adj_eq_adj_iff.trans (or_congr_left (sum7_replace_eq_iff.trans (byte_mod_eq_iff hne)))

/-! ## NOP (R71) -/

theorem decode_nop_iff {w : CmdWord} : decode w = .ok .nop ↔ w = 0x00000000 := decode_ok_iff_eq_encode

/-- `NOP` is the one operation with code 0. -/
theorem eq_nop_of_opCode_eq_zero {i : Instr} (h : i.opCode = 0) : i = .nop := by
  cases i <;> simp_all [Instr.opCode]

/-- Settles O13: a legal word has its operation's code, NOP is the only one with code 0, and its only word is 0. -/
theorem nopLeavesTheState : Obligations.NopLeavesTheState := by
  refine ⟨fun _ => rfl, fun _ => decode_nop_iff, fun w hop hw i hd => ?illegal⟩
  case illegal =>
    obtain ⟨hcode, -⟩ := decode_ok hd
    obtain rfl : i = .nop := eq_nop_of_opCode_eq_zero (hcode.symm.trans hop)
    exact hw (decode_nop_iff.1 hd)

end Sys2Proof.Machine
end

section
/-! SUPPORT. The family of 41_encoder.md: BUILD (R75 to R77), TXPOP (R79), TXCLR (R80), and a whole frame sent (R81). -/

namespace Sys2Proof

/-- The words of BUILD are those whose upper byte is 0x10 (R75): its code, then the zero bits (R45). -/
theorem extractLsb'_high8_eq_iff_fields {w : CmdWord} :
    w.extractLsb' 24 8 = 0x10 ↔ opField w = 1 ∧ mbzField w = 0 := by
  have hw : w.toNat < 2 ^ 32 := w.isLt
  simp only [opField, mbzField, ← BitVec.toNat_inj, BitVec.extractLsb'_toNat, Nat.shiftRight_eq_div_pow,
    Nat.reducePow, BitVec.ofNat_eq_ofNat, BitVec.toNat_ofNat, Nat.zero_mod]
  omega

theorem extractLsb'_high8_iff_decode_build {w : CmdWord} :
    w.extractLsb' 24 8 = 0x10 ↔ decode w = .ok (.build (b2Field w) (b1Field w) (b0Field w)) := by
  simp only [extractLsb'_high8_eq_iff_fields, decode_build_iff_fields, and_true]

/-- The operations of the transmit side. -/
def Instr.isTx : Instr → Bool
  | .build _ _ _ | .txpop | .txclr => true
  | .nop | .rxpush _ | .parse | .rxclr => false

end Sys2Proof

namespace Sys2Proof.Machine

/-! ## BUILD (R75 to R77) -/

/-- A list written from offset 0 on leaves the bytes beyond it. -/
theorem State.txByte_of_storeList_ge {s t : State} {f : List Byte} (h : t.txbuf = s.txbuf.storeList 0 f)
    (hr : t.resets = s.resets) {off : Nat} (hoff : f.length ≤ off) : t.txByte off = s.txByte off := by
  have hout : ¬(0 ≤ off ∧ off < 0 + f.length) := by omega
  rw [txByte, txByte, h, hr, Memory.byteAt_storeList, if_neg hout]

/-- BUILD leaves its frame in `TXBUF`. -/
theorem execBuild_txByte {a c p : Byte} {s t : State} (h : execBuild a c p s = .next t) (off : Nat)
    (hoff : off < (buildCommand Config.params a c p).length) :
    t.txByte off = (buildCommand Config.params a c p)[off] :=
  State.txByte_of_storeList (s := s) (by rw [execBuild_next h]) hoff

theorem execBuild_txByte_ge {a c p : Byte} {s t : State} (h : execBuild a c p s = .next t) {off : Nat}
    (hoff : 5 ≤ off) : t.txByte off = s.txByte off :=
  State.txByte_of_storeList_ge (s := s) (f := buildCommand Config.params a c p) (by rw [execBuild_next h])
    (by rw [execBuild_next h]) hoff

theorem execBuild_range_txByte {a c p : Byte} {s t : State} (h : execBuild a c p s = .next t) :
    (List.range 5).map t.txByte = buildCommand Config.params a c p := by
  refine List.ext_getElem rfl fun off _ hoff => ?_
  simpa using execBuild_txByte h off hoff

/-- Settles O19: the frame is written at offsets 0 to 4; its words are read field by field. -/
theorem buildStoresTheCommandFrame : Obligations.BuildStoresTheCommandFrame :=
  ⟨fun _ _ _ _ => ⟨_, rfl, execBuild_range_txByte rfl, rfl, fun _ => execBuild_txByte_ge rfl⟩, fun _ _ _ => rfl,
    fun _ => extractLsb'_high8_iff_decode_build⟩

/-- Settles O20: the five bytes are those of `buildCommand`, and the checksum's range and value are R68's; an operand
can be the terminator. -/
theorem builtFrameHasItsChecksumAndTerminator : Obligations.BuiltFrameHasItsChecksumAndTerminator := by
  refine ⟨fun a c p s t h => ?frame, fun off hoff => ⟨0x0D, 0x0D, 0x0D, fun s t h => ?operand⟩⟩
  case frame =>
    have hframe : [t.txByte 0, t.txByte 1, t.txByte 2, t.txByte 3, t.txByte 4] =
        [a, c, p, ck7 Config.params [a, c, p], 0x0D] := execBuild_range_txByte h
    simp only [List.cons.injEq] at hframe
    obtain ⟨h0, h1, h2, h3, h4, -⟩ := hframe
    rw [h0, h1, h2, h3, h4]
    exact ⟨rfl, ck7_le [a, c, p], ck7_ne_term Config.params [a, c, p], rfl⟩
  case operand =>
    have hlt : off < (buildCommand Config.params 0x0D 0x0D 0x0D).length := Nat.lt_trans hoff (by decide)
    rw [execBuild_txByte h off hlt]
    match off, hoff with
    | 0, _ | 1, _ | 2, _ => rfl

/-! ## TXPOP (R79) -/

theorem execTxpop_of_lt {s : State} (hp : s.txptr.toNat < 5) :
    execTxpop s = .next { s.emit (s.txByte s.txptr.toNat) with txptr := s.txptr + 1 } := if_pos hp

theorem execTxpop_of_le {s : State} (hp : 5 ≤ s.txptr.toNat) : execTxpop s = .next s := if_neg (Nat.not_lt.2 hp)

/-- The pointer of a pending frame does not wrap. -/
theorem toNat_txptr_add_one {ptr : BitVec 3} (hp : ptr.toNat < 5) : (ptr + 1).toNat = ptr.toNat + 1 := by
  bv_omega

/-- The whole pending frame has been written, by one BUILD (R27). -/
theorem State.Inv.isSome_byteAt_txptr {s : State} (hs : s.Inv) (hp : s.txptr.toNat < 5) :
    (s.txbuf.byteAt s.txptr.toNat).isSome = true := by
  obtain ⟨a, c, p, hbyte⟩ := hs.tx_built hp
  have hlt : s.txptr.toNat < (buildCommand Config.params a c p).length := hp
  rw [hbyte _ hp, List.getElem?_eq_getElem hlt, Option.isSome_some]

/-- Settles O21: the two branches of TXPOP, the invariant's clause on `TXBUF`, and TXPOP's one word. -/
theorem txpopEmitsTheNextByte : Obligations.TxpopEmitsTheNextByte :=
  ⟨fun _ hp => ⟨_, execTxpop_of_lt hp, rfl, rfl, toNat_txptr_add_one hp, rfl⟩, fun _ => execTxpop_of_le,
    fun _ hs => hs.isSome_byteAt_txptr, fun _ => decode_ok_iff_eq_encode⟩

/-! ## TXCLR (R80) -/

theorem execTxclr_eq (s : State) : execTxclr s = .next { s with txptr := 5 } := rfl

/-- Settles O22: TXCLR is one register write, which at 5 changes nothing, and has one word. -/
theorem txclrDropsThePendingFrame : Obligations.TxclrDropsThePendingFrame :=
  ⟨fun s => ⟨execTxclr_eq s, rfl⟩, fun s hp => (execTxclr_eq s).trans (by rw [← hp]),
    fun _ => decode_ok_iff_eq_encode⟩

/-! ## What the other operations leave of the transmit side -/

/-- The transmit side, the draws of its unwritten bytes and what is presented next are the same in both states. -/
structure State.SameTx (s t : State) : Prop where
  txbuf : t.txbuf = s.txbuf
  resets : t.resets = s.resets
  txptr : t.txptr = s.txptr
  txd : t.txd = s.txd
  txwire : t.txwire = s.txwire
  pending : t.pending = s.pending

theorem execRxpush_sameTx {b : Byte} {s t : State} (h : execRxpush b s = .next t) : s.SameTx t := by
  obtain ⟨-, rfl⟩ | ⟨-, rfl⟩ := execRxpush_next h <;> exact ⟨rfl, rfl, rfl, rfl, rfl, rfl⟩

theorem execParse_sameTx {s t : State} (h : execParse s = .next t) : s.SameTx t := by
  obtain ⟨-, rfl⟩ | ⟨-, -, rfl⟩ | ⟨-, -, -, rfl⟩ | ⟨-, -, -, rfl⟩ := execParse_next h <;>
    exact ⟨rfl, rfl, rfl, rfl, rfl, rfl⟩

theorem exec_sameTx {i : Instr} (hi : i.isTx = false) {s t : State} (h : exec i s = .next t) : s.SameTx t := by
  cases i with
  | nop =>
    obtain rfl := execNop_next h
    exact ⟨rfl, rfl, rfl, rfl, rfl, rfl⟩
  | build a c p => exact nomatch hi
  | txpop => exact nomatch hi
  | rxpush b => exact execRxpush_sameTx h
  | parse => exact execParse_sameTx h
  | rxclr =>
    obtain rfl := execRxclr_next h
    exact ⟨rfl, rfl, rfl, rfl, rfl, rfl⟩
  | txclr => exact nomatch hi

/-! ## What the event presented makes a step do -/

theorem exec_total (i : Instr) (s : State) : ∃ t, exec i s = .next t := by
  obtain ⟨t, ht, -⟩ := exec_ignoresIllcmd i s
  exact ⟨t, ht⟩

theorem Event.decoded_eq_some_iff {e : Event} {i : Instr} :
    e.decoded = some i ↔ ∃ w, e = .command w ∧ decode w = .ok i := by
  cases e with
  | reset => simp [decoded]
  | command w => cases hd : decode w <;> simp [decoded, hd]

theorem step_of_decoded {s : State} {e : Event} {i : Instr} {rest : List Event} (hp : s.pending = e :: rest)
    (hd : e.decoded = some i) : step s = exec i (s.withPending rest) := by
  obtain ⟨w, rfl, hw⟩ := Event.decoded_eq_some_iff.1 hd
  simp only [step, hp, hw]

theorem step_of_not_decoded {s : State} {e : Event} {rest : List Event} (hp : s.pending = e :: rest)
    (hne : e ≠ .reset) (hd : e.decoded = none) : step s = .next (s.withPending rest).illegalCommand := by
  cases e with
  | reset => exact absurd rfl hne
  | command w =>
    cases hw : decode w with
    | ok i => simp [Event.decoded_command_of_ok hw] at hd
    | error r => exact step_of_illegal hp hw

/-! ## Sending a built frame (R81) -/

/-- The frame `f` is in `TXBUF`, and its first `n` bytes have been emitted after the bytes `wire`. -/
structure State.HasSent (s : State) (f wire : List Byte) (n : Nat) : Prop where
  length : f.length = 5
  txByte : ∀ (off : Nat) (hoff : off < f.length), s.txByte off = f[off]
  txptr : s.txptr.toNat = n
  txwire : s.txwire = wire ++ f.take n

theorem execBuild_hasSent {a c p : Byte} {s t : State} (h : execBuild a c p s = .next t) :
    t.HasSent (buildCommand Config.params a c p) s.txwire 0 where
  length := buildCommand_length Config.params a c p
  txByte := execBuild_txByte h
  txptr := by rw [execBuild_next h]; rfl
  txwire := by rw [execBuild_next h]; simp

section
variable {s t : State} {f wire : List Byte} {n : Nat}

theorem State.HasSent.of_sameTx (hs : s.HasSent f wire n) (h : s.SameTx t) : t.HasSent f wire n where
  length := hs.length
  txByte off hoff := by rw [txByte_congr h.txbuf h.resets, hs.txByte off hoff]
  txptr := by rw [h.txptr, hs.txptr]
  txwire := by rw [h.txwire, hs.txwire]

theorem State.HasSent.withPending (hs : s.HasSent f wire n) (rest : List Event) :
    (s.withPending rest).HasSent f wire n where
  length := hs.length
  txByte off hoff := by rw [txByte_withPending, hs.txByte off hoff]
  txptr := hs.txptr
  txwire := hs.txwire

theorem State.HasSent.illegalCommand (hs : s.HasSent f wire n) : s.illegalCommand.HasSent f wire n :=
  hs.of_sameTx ⟨rfl, rfl, rfl, rfl, rfl, rfl⟩

/-- TXPOP emits the next byte of the frame. -/
theorem execTxpop_hasSent (hs : s.HasSent f wire n) (hn : n < 5) :
    ∃ t, execTxpop s = .next t ∧ t.pending = s.pending ∧ t.HasSent f wire (n + 1) := by
  obtain ⟨hlen, hbyte, rfl, hwire⟩ := hs
  have hlt : s.txptr.toNat < f.length := hlen ▸ hn
  refine ⟨_, execTxpop_of_lt hn, rfl, hlen, fun off hoff => ?txByte, toNat_txptr_add_one hn, ?txwire⟩
  case txByte => exact (congrFun (State.txByte_congr rfl rfl) off).trans (hbyte off hoff)
  case txwire =>
    calc s.txwire ++ [s.txByte s.txptr.toNat]
      _ = wire ++ (f.take s.txptr.toNat ++ [f[s.txptr.toNat]]) := by rw [hwire, hbyte _ hlt, List.append_assoc]
      _ = wire ++ f.take (s.txptr.toNat + 1) := by rw [List.take_concat_get' f _ hlt]

/-- A step with a TXPOP presented sends one byte more. -/
theorem step_hasSent_of_txpop {e : Event} {rest : List Event} (hp : s.pending = e :: rest)
    (hd : e.decoded = some .txpop) (hs : s.HasSent f wire n) (hn : n < 5) :
    ∃ t, step s = .next t ∧ t.pending = rest ∧ t.HasSent f wire (n + 1) := by
  rw [step_of_decoded hp hd]
  exact execTxpop_hasSent (hs.withPending rest) hn

/-- What may stand between a BUILD and the end of its frame: no reset event, no TXCLR and no other BUILD. -/
def Event.keepsFrame (e : Event) : Prop :=
  e ≠ .reset ∧ e.decoded ≠ some .txclr ∧ ∀ a c p, e.decoded ≠ some (.build a c p)

/-- What such an event decodes to, a TXPOP apart, is none of the transmit side's operations. -/
theorem Event.keepsFrame.isTx_eq_false {e : Event} (he : e.keepsFrame) {i : Instr} (hd : e.decoded = some i)
    (hi : i ≠ .txpop) : i.isTx = false := by
  obtain ⟨-, htxclr, hbuild⟩ := he
  cases i with
  | nop => rfl
  | build a c p => exact absurd hd (hbuild a c p)
  | txpop => exact absurd rfl hi
  | rxpush b => rfl
  | parse => rfl
  | rxclr => rfl
  | txclr => exact absurd hd htxclr

/-- A step with any other such event presented leaves the sending as it is. -/
theorem step_hasSent_of_not_txpop {e : Event} {rest : List Event} (hp : s.pending = e :: rest) (he : e.keepsFrame)
    (hd : e.decoded ≠ some .txpop) (hs : s.HasSent f wire n) :
    ∃ t, step s = .next t ∧ t.pending = rest ∧ t.HasSent f wire n := by
  cases hi : e.decoded with
  | none => exact ⟨_, step_of_not_decoded hp he.1 hi, rfl, (hs.withPending rest).illegalCommand⟩
  | some i =>
    obtain ⟨t, ht⟩ := exec_total i (s.withPending rest)
    have hsame := exec_sameTx (he.isTx_eq_false hi fun h => hd (h ▸ hi)) ht
    exact ⟨t, (step_of_decoded hp hi).trans ht, hsame.pending, (hs.withPending rest).of_sameTx hsame⟩

end

/-- A run takes its first step and runs on from there. -/
theorem run_succ_of_step {M : Host.Core} {s t : M.State} (h : M.step s = .next t) (k : Nat) :
    M.run (k + 1) s = M.run k t := by
  rw [Host.Core.run, h]

/-- Through a list of such events, as many bytes of the frame are sent as TXPOP are among them. -/
theorem run_hasSent {f wire : List Byte} {rest : List Event} (es : List Event) (hes : ∀ e ∈ es, e.keepsFrame)
    {s : State} {n : Nat} (hp : s.pending = es ++ rest) (hs : s.HasSent f wire n)
    (hn : n + es.countP (fun e => e.decoded == some .txpop) ≤ 5) :
    ∃ t, Host.Core.run core es.length s = .next t ∧ t.pending = rest ∧
      t.HasSent f wire (n + es.countP fun e => e.decoded == some .txpop) := by
  induction es generalizing s n with
  | nil => exact ⟨s, rfl, hp, hs⟩
  | cons e es ih =>
    obtain ⟨he, hes⟩ := List.forall_mem_cons.1 hes
    by_cases hd : e.decoded = some .txpop
    · rw [List.countP_cons_of_pos (by simpa using hd), Nat.add_comm _ 1, ← Nat.add_assoc] at hn ⊢
      obtain ⟨u, hu, hpu, hsu⟩ := step_hasSent_of_txpop hp hd hs (by omega)
      rw [List.length_cons, run_succ_of_step (M := core) hu]
      exact ih hes hpu hsu hn
    · rw [List.countP_cons_of_neg (by simpa using hd)] at hn ⊢
      obtain ⟨u, hu, hpu, hsu⟩ := step_hasSent_of_not_txpop hp he hd hs
      rw [List.length_cons, run_succ_of_step (M := core) hu]
      exact ih hes hpu hsu hn

/-- Settles O23: BUILD starts the frame with no byte of it sent, and the five TXPOP send it. -/
theorem fiveTxpopsSendTheBuiltFrame : Obligations.FiveTxpopsSendTheBuiltFrame := by
  intro s a c p es rest hp hes hcount
  obtain ⟨u, hu⟩ := exec_total (.build a c p) (s.withPending (es ++ rest))
  have hpu : u.pending = es ++ rest := by rw [execBuild_next hu, State.withPending_pending]
  have hstep : step s = .next u :=
    (step_of_decoded hp (Event.decoded_command_of_ok (decode_encode _))).trans hu
  obtain ⟨t, ht, hpt, hsent⟩ := run_hasSent es hes hpu (execBuild_hasSent hu) (by omega)
  rw [hcount] at hsent
  exact ⟨t, (run_succ_of_step (M := core) hstep _).trans ht, hsent.txwire, BitVec.eq_of_toNat_eq hsent.txptr, hpt⟩

end Sys2Proof.Machine
end

section
/-! SUPPORT. The family of 42_decoder.md: RXPUSH (R86, R87), RXCLR (R88), PARSE (R89 to R93, R96) and `parse_response`
(R85, R94, R95, R97). -/

namespace Sys2Proof

/-- The words of RXPUSH are those whose upper 24 bits are 0x300000 (R86): its code, then zero bits (R45). -/
theorem extractLsb'_high24_eq_iff_fields {w : CmdWord} : w.extractLsb' 8 24 = 0x300000 ↔
    opField w = 3 ∧ mbzField w = 0 ∧ b2Field w = 0 ∧ b1Field w = 0 := by
  have hw : w.toNat < 2 ^ 32 := w.isLt
  simp only [opField, mbzField, b2Field, b1Field, ← BitVec.toNat_inj, BitVec.extractLsb'_toNat,
    Nat.shiftRight_eq_div_pow, Nat.reducePow, BitVec.ofNat_eq_ofNat, BitVec.toNat_ofNat, Nat.zero_mod]
  omega

theorem extractLsb'_high24_iff_decode_rxpush {w : CmdWord} :
    w.extractLsb' 8 24 = 0x300000 ↔ decode w = .ok (.rxpush (b0Field w)) := by
  simp only [extractLsb'_high24_eq_iff_fields, decode_rxpush_iff_fields, and_true]

end Sys2Proof

namespace Sys2Proof.Machine

/-! ## RXPUSH (R86) -/

theorem execRxpush_of_lt {s : State} {b : Byte} (hc : s.rxcnt.toNat < 10) :
    execRxpush b s = .next { s.writeRx s.rxcnt.toNat b with rxcnt := s.rxcnt + 1 } := if_pos hc

theorem execRxpush_of_le {s : State} {b : Byte} (hc : 10 ≤ s.rxcnt.toNat) :
    execRxpush b s = .next { s with rxOvf := true } := if_neg (Nat.not_lt.2 hc)

/-- The count of a buffer with room does not wrap. -/
theorem toNat_rxcnt_add_one {cnt : BitVec 4} (hc : cnt.toNat < 10) : (cnt + 1).toNat = cnt.toNat + 1 := by
  bv_omega

/-- Settles O24: the two branches of RXPUSH, and its words read field by field. -/
theorem rxpushStoresTheByte : Obligations.RxpushStoresTheByte :=
  ⟨fun _ _ hc => ⟨_, execRxpush_of_lt hc, toNat_rxcnt_add_one hc, State.rxByte_of_store rfl rfl, rfl⟩,
    fun _ _ => execRxpush_of_le, fun _ => extractLsb'_high24_iff_decode_rxpush⟩

/-! ## RXCLR (R88) -/

theorem execRxclr_eq (s : State) : execRxclr s = .next { s with rxcnt := 0, rxOvf := false, result := 0 } := rfl

/-- Settles O26: RXCLR is three register writes and has one word. -/
theorem rxclrEmptiesTheReceiveSide : Obligations.RxclrEmptiesTheReceiveSide :=
  ⟨execRxclr_eq, fun _ => decode_ok_iff_eq_encode⟩

/-! ## The bytes of a frame -/

theorem frameByte_eq_getElem {f : List Byte} {off : Nat} (h : off < f.length) : frameByte f off = f[off] := by
  simp [frameByte, h]

theorem getElem?_eq_some_frameByte {f : List Byte} {off : Nat} (h : off < f.length) :
    f[off]? = some (frameByte f off) := by
  rw [frameByte_eq_getElem h, List.getElem?_eq_getElem h]

theorem frameByte_take {f : List Byte} {n off : Nat} (h : off < n) : frameByte (f.take n) off = frameByte f off := by
  simp only [frameByte, List.getD_eq_getElem?_getD, List.getElem?_take_of_lt h]

theorem frameByte_set_same {f : List Byte} {off : Nat} (h : off < f.length) (b : Byte) :
    frameByte (f.set off b) off = b := by
  simp [frameByte, h]

theorem frameByte_set_other {f : List Byte} {off off' : Nat} (h : off ≠ off') (b : Byte) :
    frameByte (f.set off b) off' = frameByte f off' := by
  simp only [frameByte, List.getD_eq_getElem?_getD, List.getElem?_set_ne h]

/-! ## The checks on a frame (R92, R93) -/

theorem badHeader_iff {f : List Byte} : badHeader Config.params f = true ↔
    frameByte f 0 ≠ 0x11 ∨ frameByte f 1 ≠ 0x42 ∨ frameByte f 9 ≠ 0x0D := by
  have hparts : badHeader Config.params f = true ↔
      ((frameByte f 0 != 0x11) = true ∨ (frameByte f 1 != 0x42) = true) ∨ (frameByte f 9 != 0x0D) = true :=
    Bool.or_eq_true_iff.trans (or_congr_left Bool.or_eq_true_iff)
  simpa only [bne_iff_ne, or_assoc] using hparts

theorem badHeader_eq_false_iff {f : List Byte} : badHeader Config.params f = false ↔
    frameByte f 0 = 0x11 ∧ frameByte f 1 = 0x42 ∧ frameByte f 9 = 0x0D := by
  rw [← Bool.not_eq_true, badHeader_iff]
  simp only [not_or, not_not]

theorem badChecksum_iff {f : List Byte} :
    badChecksum Config.params f = true ↔ ck7 Config.params (f.take 8) ≠ frameByte f 8 := bne_iff_ne

theorem badChecksum_eq_false_iff {f : List Byte} :
    badChecksum Config.params f = false ↔ ck7 Config.params (f.take 8) = frameByte f 8 := bne_eq_false_iff_eq

/-- The checks look at the first ten bytes only. -/
@[simp] theorem badHeader_take (f : List Byte) : badHeader Config.params (f.take 10) = badHeader Config.params f := by
  rw [Bool.eq_iff_iff]
  simp only [badHeader_iff, frameByte_take (show 0 < 10 by decide),
    frameByte_take (show 1 < 10 by decide), frameByte_take (show 9 < 10 by decide)]

@[simp] theorem badChecksum_take (f : List Byte) :
    badChecksum Config.params (f.take 10) = badChecksum Config.params f := by
  rw [Bool.eq_iff_iff, badChecksum_iff, badChecksum_iff, frameByte_take (by decide), List.take_take]
  rfl

/-! ## `parse_response`, one equation per outcome (R85) -/

section
variable {k : Nat} {bs : List Byte}

theorem parseResponse_of_short (h : bs.length < 10) : parseResponse Config.params k bs = .tooShort := if_pos h

/-- Ten bytes and more are judged by the two checks. -/
theorem parseResponse_of_le (h : 10 ≤ bs.length) : parseResponse Config.params k bs =
    if badHeader Config.params bs then .malformed
    else if badChecksum Config.params bs then .ckMismatch
    else .ok (decodeReading Config.params k (bs.take 10)) := by
  rw [← badHeader_take, ← badChecksum_take]
  exact if_neg (Nat.not_lt.2 h)

theorem parseResponse_of_badHeader (h : 10 ≤ bs.length) (hh : badHeader Config.params bs = true) :
    parseResponse Config.params k bs = .malformed := by
  rw [parseResponse_of_le h, if_pos hh]

theorem parseResponse_of_badChecksum (h : 10 ≤ bs.length) (hh : badHeader Config.params bs = false)
    (hk : badChecksum Config.params bs = true) : parseResponse Config.params k bs = .ckMismatch := by
  rw [parseResponse_of_le h, if_neg (Bool.eq_false_iff.1 hh), if_pos hk]

theorem parseResponse_of_valid (h : 10 ≤ bs.length) (hh : badHeader Config.params bs = false)
    (hk : badChecksum Config.params bs = false) :
    parseResponse Config.params k bs = .ok (decodeReading Config.params k (bs.take 10)) := by
  rw [parseResponse_of_le h, if_neg (Bool.eq_false_iff.1 hh), if_neg (Bool.eq_false_iff.1 hk)]

/-- What `parse_response` can answer, and when. -/
theorem parseResponse_cases (k : Nat) (bs : List Byte) :
    (bs.length < 10 ∧ parseResponse Config.params k bs = .tooShort) ∨
    (10 ≤ bs.length ∧ badHeader Config.params bs = true ∧ parseResponse Config.params k bs = .malformed) ∨
    (10 ≤ bs.length ∧ badHeader Config.params bs = false ∧ badChecksum Config.params bs = true ∧
      parseResponse Config.params k bs = .ckMismatch) ∨
    (10 ≤ bs.length ∧ badHeader Config.params bs = false ∧ badChecksum Config.params bs = false ∧
      parseResponse Config.params k bs = .ok (decodeReading Config.params k (bs.take 10))) := by
  rcases Nat.lt_or_ge bs.length 10 with h | h
  · exact .inl ⟨h, parseResponse_of_short h⟩
  cases hh : badHeader Config.params bs with
  | true => exact .inr (.inl ⟨h, rfl, parseResponse_of_badHeader h hh⟩)
  | false =>
    cases hk : badChecksum Config.params bs with
    | true => exact .inr (.inr (.inl ⟨h, rfl, rfl, parseResponse_of_badChecksum h hh hk⟩))
    | false => exact .inr (.inr (.inr ⟨h, rfl, rfl, parseResponse_of_valid h hh hk⟩))

theorem parseResponse_eq_tooShort_iff : parseResponse Config.params k bs = .tooShort ↔ bs.length < 10 := by
  refine ⟨fun he => ?_, parseResponse_of_short⟩
  obtain ⟨h, -⟩ | ⟨-, -, h⟩ | ⟨-, -, -, h⟩ | ⟨-, -, -, h⟩ := parseResponse_cases k bs
  · exact h
  all_goals exact nomatch he.symm.trans h

/-- An accepted list has passed the three checks. -/
theorem valid_of_parseResponse_ok {r : Reading} (he : parseResponse Config.params k bs = .ok r) :
    10 ≤ bs.length ∧ badHeader Config.params bs = false ∧ badChecksum Config.params bs = false := by
  obtain ⟨-, h⟩ | ⟨-, -, h⟩ | ⟨-, -, -, h⟩ | ⟨hlen, hh, hk, -⟩ := parseResponse_cases k bs
  · exact nomatch he.symm.trans h
  · exact nomatch he.symm.trans h
  · exact nomatch he.symm.trans h
  · exact ⟨hlen, hh, hk⟩

/-- Bytes after the tenth are not looked at (R95). -/
theorem parseResponse_append (h : 10 ≤ bs.length) (extra : List Byte) :
    parseResponse Config.params k (bs ++ extra) = parseResponse Config.params k bs := by
  have hle : 10 ≤ (bs ++ extra).length := by
    rw [List.length_append]
    omega
  rw [parseResponse_of_le h, parseResponse_of_le hle, ← badHeader_take (bs ++ extra),
    ← badChecksum_take (bs ++ extra), List.take_append_of_le_length h, badHeader_take, badChecksum_take]

end

/-- Settles O27: each outcome's equation, its checks read off the bytes of the list. -/
theorem parseResponseJudgesInOrder : Obligations.ParseResponseJudgesInOrder := by
  intro k bs
  refine ⟨parseResponse_of_short, fun h => ?_⟩
  have hbyte {off : Nat} (hoff : off < 10) : bs[off]? = some (frameByte bs off) :=
    getElem?_eq_some_frameByte (Nat.lt_of_lt_of_le hoff h)
  rw [hbyte (show 0 < 10 by decide), hbyte (show 1 < 10 by decide), hbyte (show 8 < 10 by decide),
    hbyte (show 9 < 10 by decide)]
  simp only [ne_eq, Option.some.injEq]
  refine ⟨fun hwrong => ?malformed, fun h0 h1 h9 => ?framed, parseResponse_append h⟩
  case malformed => exact parseResponse_of_badHeader h (badHeader_iff.2 hwrong)
  case framed =>
    have hh := badHeader_eq_false_iff.2 ⟨h0, h1, h9⟩
    exact ⟨fun hk => parseResponse_of_badChecksum h hh (badChecksum_iff.2 hk),
      fun hk => parseResponse_of_valid h hh (badChecksum_eq_false_iff.2 hk)⟩

/-! ## PARSE on the bytes of the buffer (R91 to R93) -/

theorem State.badHeader_rxFrame_iff {s : State} : badHeader Config.params s.rxFrame = true ↔
    s.rxByte 0 ≠ 0x11 ∨ s.rxByte 1 ≠ 0x42 ∨ s.rxByte 9 ≠ 0x0D := badHeader_iff

theorem State.badHeader_rxFrame_eq_false_iff {s : State} : badHeader Config.params s.rxFrame = false ↔
    s.rxByte 0 = 0x11 ∧ s.rxByte 1 = 0x42 ∧ s.rxByte 9 = 0x0D := badHeader_eq_false_iff

theorem State.badChecksum_rxFrame_iff {s : State} : badChecksum Config.params s.rxFrame = true ↔
    ck7 Config.params ((List.range 8).map s.rxByte) ≠ s.rxByte 8 := badChecksum_iff

/-- Settles O28: the first check of PARSE and of `parse_response`. -/
theorem parseRejectsShortBuffers : Obligations.ParseRejectsShortBuffers :=
  ⟨fun _ => execParse_of_short, fun _ _ => parseResponse_eq_tooShort_iff⟩

/-- Settles O29: the second check of PARSE. -/
theorem parseRejectsWrongHeaderOrTerminator : Obligations.ParseRejectsWrongHeaderOrTerminator :=
  fun _ hc hwrong => execParse_of_badHeader hc (State.badHeader_rxFrame_iff.2 hwrong)

/-- Settles O30: the third check of PARSE; the range of the checksum is R68's. -/
theorem parseRejectsWrongChecksum : Obligations.ParseRejectsWrongChecksum := by
  refine ⟨fun s hc h0 h1 h9 hk => ?parse, fun bs b hb heq => ?range⟩
  case parse =>
    exact execParse_of_badChecksum hc (State.badHeader_rxFrame_eq_false_iff.2 ⟨h0, h1, h9⟩)
      (State.badChecksum_rxFrame_iff.2 hk)
  case range =>
    subst heq
    obtain hbit7 | hterm := hb
    · exact absurd (ck7_le bs) (by omega)
    · exact ck7_ne_term Config.params bs hterm

/-! ## What PARSE reports and writes (R89, R90, R144, R146) -/

/-- The code PARSE reports is that of the first check that fails. -/
theorem execParse_result {s t : State} (h : execParse s = .next t) :
    t.result = if s.rxcnt.toNat < 10 then 2
      else if s.rxByte 0 ≠ 0x11 ∨ s.rxByte 1 ≠ 0x42 ∨ s.rxByte 9 ≠ 0x0D then 3
      else if ck7 Config.params ((List.range 8).map s.rxByte) ≠ s.rxByte 8 then 4
      else 1 := by
  simp only [← State.badHeader_rxFrame_iff, ← State.badChecksum_rxFrame_iff]
  obtain ⟨hc, rfl⟩ | ⟨hc, hh, rfl⟩ | ⟨hc, hh, hk, rfl⟩ | ⟨hc, hh, hk, rfl⟩ := execParse_next h
  · rw [if_pos hc]; rfl
  · rw [if_neg (Nat.not_lt.2 hc), if_pos hh]; rfl
  · rw [if_neg (Nat.not_lt.2 hc), if_neg (Bool.eq_false_iff.1 hh), if_pos hk]; rfl
  · rw [if_neg (Nat.not_lt.2 hc), if_neg (Bool.eq_false_iff.1 hh), if_neg (Bool.eq_false_iff.1 hk)]; rfl

/-- PARSE writes `RESULT` alone, with another code than OK, or accepts the decoded frame. -/
theorem execParse_reject_or_accept {s t : State} (h : execParse s = .next t) :
    (∃ code, code ≠ 1 ∧ t = s.reject code) ∨ t = s.accept (decodeReading Config.params s.pushes s.rxFrame) := by
  obtain ⟨-, ht⟩ | ⟨-, -, ht⟩ | ⟨-, -, -, ht⟩ | ⟨-, -, -, ht⟩ := execParse_next h
  · exact .inl ⟨_, by decide, ht⟩
  · exact .inl ⟨_, by decide, ht⟩
  · exact .inl ⟨_, by decide, ht⟩
  · exact .inr ht

/-- Settles O31: the code of the first failure, and the fields written by a rejection and by an acceptance. -/
theorem parseReportsTheFirstFailure : Obligations.ParseReportsTheFirstFailure := by
  refine ⟨fun s => ?parse, fun _ => decode_ok_iff_eq_encode⟩
  obtain ⟨t, ht⟩ := exec_total .parse s
  refine ⟨t, ht, execParse_result ht, ?_⟩
  obtain ⟨code, hcode, rfl⟩ | rfl := execParse_reject_or_accept ht
  · exact ⟨fun _ => rfl, fun hok => absurd hok hcode⟩
  · exact ⟨fun hno => absurd rfl hno, fun _ => rfl⟩

/-! ## PARSE is `parse_response` on the bytes received (R89) -/

theorem State.length_rxBytes (s : State) : s.rxBytes.length = s.rxcnt.toNat := by
  simp [rxBytes]

theorem State.take_rxBytes {s : State} (hc : 10 ≤ s.rxcnt.toNat) : s.rxBytes.take 10 = s.rxFrame := by
  rw [rxBytes, ← List.map_take, List.take_range, Nat.min_eq_left hc]
  rfl

/-- PARSE records the outcome of `parse_response` on the bytes now in the buffer. -/
theorem execParse_eq_record (s : State) :
    execParse s = .next (s.record (parseResponse Config.params s.pushes s.rxBytes)) := by
  rcases Nat.lt_or_ge s.rxcnt.toNat 10 with hc | hc
  · rw [parseResponse_of_short (s.length_rxBytes ▸ hc)]
    exact execParse_of_short hc
  have hlen : 10 ≤ s.rxBytes.length := s.length_rxBytes ▸ hc
  rw [parseResponse_of_le hlen, ← badHeader_take, ← badChecksum_take, State.take_rxBytes hc]
  cases hh : badHeader Config.params s.rxFrame with
  | true => exact execParse_of_badHeader hc hh
  | false =>
    cases hk : badChecksum Config.params s.rxFrame with
    | true => exact execParse_of_badChecksum hc hh hk
    | false => exact execParse_of_valid hc hh hk

/-! ## What PARSE does not look at (R87, R96) -/

/-- The state with `RX_OVF` at `v`. -/
def State.withRxOvf (s : State) (v : Bool) : State := { s with rxOvf := v }

/-- The state with another transmit side. -/
def State.withTx (s : State) (m : Memory) (ptr : BitVec 3) (d : Byte) (wire : List Byte) : State :=
  { s with txbuf := m, txptr := ptr, txd := d, txwire := wire }

theorem State.record_withRxOvf (s : State) (v : Bool) (o : ParseOutcome) :
    (s.withRxOvf v).record o = (s.record o).withRxOvf v := by
  cases o <;> rfl

theorem State.record_withTx (s : State) (m : Memory) (ptr : BitVec 3) (d : Byte) (wire : List Byte)
    (o : ParseOutcome) : (s.withTx m ptr d wire).record o = (s.record o).withTx m ptr d wire := by
  cases o <;> rfl

/-- Settles O35: `parse_response` is given the same bytes whatever the transmit side is, and recording its outcome
leaves the transmit side. -/
theorem parseIgnoresTheCommandSent : Obligations.ParseIgnoresTheCommandSent :=
  fun s => ⟨_, execParse_eq_record s, fun m ptr d wire =>
    (execParse_eq_record (s.withTx m ptr d wire)).trans (congrArg _ (s.record_withTx m ptr d wire _))⟩

/-! ## The overflow flag (R87) -/

/-- RXCLR is the only operation that clears `RX_OVF`. -/
theorem exec_rxOvf_of_ne_rxclr {i : Instr} (hi : i ≠ .rxclr) {s t : State} (h : exec i s = .next t)
    (ho : s.rxOvf = true) : t.rxOvf = true := by
  cases i with
  | nop => rwa [execNop_next h]
  | build a c p => rwa [execBuild_next h]
  | txpop => obtain ⟨-, rfl⟩ | ⟨-, rfl⟩ := execTxpop_next h <;> exact ho
  | rxpush b =>
    obtain ⟨-, rfl⟩ | ⟨-, rfl⟩ := execRxpush_next h
    · exact ho
    · rfl
  | parse => obtain ⟨code, -, rfl⟩ | rfl := execParse_reject_or_accept h <;> exact ho
  | rxclr => exact absurd rfl hi
  | txclr => rwa [execTxclr_next h]

/-- Settles O25: RXPUSH on a full buffer, the flag through each operation, and PARSE, which is `parse_response` on the
same bytes whatever the flag is. -/
theorem overflowDropsTheByteAndSticks : Obligations.OverflowDropsTheByteAndSticks := by
  refine ⟨fun b s hc => ?full, fun i s t h ho hi => exec_rxOvf_of_ne_rxclr hi h ho, fun s => ?parse⟩
  case full => exact execRxpush_of_le (by rw [hc]; decide)
  case parse =>
    exact ⟨_, execParse_eq_record s, fun v =>
      (execParse_eq_record (s.withRxOvf v)).trans (congrArg _ (s.record_withRxOvf v _))⟩

/-! ## One changed byte of a frame (R94) -/

section
variable {f : List Byte} {off : Nat}

/-- A list of bytes with one byte changed has the same checksum exactly when R70 says so. -/
theorem ck7_set_eq_iff (h : off < f.length) {b : Byte} (hne : b ≠ f[off]) :
    ck7 Config.params (f.set off b) = ck7 Config.params f ↔
      ((b.toNat : Int) - f[off].toNat = 128 ∨ (b.toNat : Int) - f[off].toNat = -128) ∨
      (sum7 Config.params f = 0x0D ∧ sum7 Config.params (f.set off b) = 0x0E) ∨
      (sum7 Config.params f = 0x0E ∧ sum7 Config.params (f.set off b) = 0x0D) := by
  have hold : f.take off ++ f[off] :: f.drop (off + 1) = f := by
    rw [List.getElem_cons_drop, List.take_append_drop]
  have hnew : f.take off ++ b :: f.drop (off + 1) = f.set off b := by
    rw [List.set_eq_take_append_cons_drop, if_pos h]
  have hck := singleByteChangeOfCk7 (f.take off) (f.drop (off + 1)) f[off] b hne.symm
  rwa [hold, hnew] at hck

/-- Header and terminator stand at offsets 0, 1 and 9. -/
theorem badHeader_set_inner (h : 2 ≤ off) (h' : off ≤ 8) (b : Byte) :
    badHeader Config.params (f.set off b) = badHeader Config.params f := by
  rw [Bool.eq_iff_iff, badHeader_iff, badHeader_iff, frameByte_set_other (by omega), frameByte_set_other (by omega),
    frameByte_set_other (by omega)]

theorem badHeader_set_outer (hok : badHeader Config.params f = false) (h : off < f.length) {b : Byte}
    (hne : b ≠ f[off]) (hoff : off = 0 ∨ off = 1 ∨ off = 9) : badHeader Config.params (f.set off b) = true := by
  obtain ⟨h0, h1, h9⟩ := badHeader_eq_false_iff.1 hok
  rw [← frameByte_eq_getElem h] at hne
  rw [badHeader_iff]
  obtain rfl | rfl | rfl := hoff
  · exact .inl (by rwa [frameByte_set_same h, ← h0])
  · exact .inr (.inl (by rwa [frameByte_set_same h, ← h1]))
  · exact .inr (.inr (by rwa [frameByte_set_same h, ← h9]))

/-- A wrong byte in the place of the checksum. -/
theorem badChecksum_set_checksum (hok : badChecksum Config.params f = false) (h : 8 < f.length) {b : Byte}
    (hne : b ≠ f[8]) : badChecksum Config.params (f.set 8 b) = true := by
  rw [badChecksum_iff, List.take_set_of_le (Nat.le_refl 8), frameByte_set_same h, badChecksum_eq_false_iff.1 hok,
    frameByte_eq_getElem h]
  exact hne.symm

/-- A changed byte that the checksum covers is missed exactly when the checksum stays the same. -/
theorem badChecksum_set_covered (hok : badChecksum Config.params f = false) (h : off < 8) (b : Byte) :
    badChecksum Config.params (f.set off b) = false ↔
      ck7 Config.params ((f.take 8).set off b) = ck7 Config.params (f.take 8) := by
  rw [badChecksum_eq_false_iff, List.take_set, frameByte_set_other (by omega), badChecksum_eq_false_iff.1 hok]

end

/-- Settles O33: a changed byte at the edges is seen by the header check, the checksum byte by comparison, and a
covered byte when the checksum of R70 changes. -/
theorem singleByteErrorDetection : Obligations.SingleByteErrorDetection := by
  intro k f r hlen hok off h b hne g missed
  obtain ⟨-, hh, hk⟩ := valid_of_parseResponse_ok hok
  have hle : 10 ≤ g.length := by
    rw [List.length_set, hlen]
  have hmissed (hoff : off ≤ 7) : badChecksum Config.params g = false ↔ missed := by
    have hcov : off < (f.take 8).length := by
      rw [List.length_take, hlen]
      omega
    rw [badChecksum_set_covered hk (by omega), ck7_set_eq_iff hcov (by rwa [List.getElem_take]), List.getElem_take,
      ← List.take_set]
  refine ⟨fun hoff => ?outer, fun hoff => ?checksum, fun hlo hhi hno => ?detected, fun hlo hhi hyes => ?missed⟩
  case outer => exact parseResponse_of_badHeader hle (badHeader_set_outer hh h hne hoff)
  case checksum =>
    subst hoff
    exact parseResponse_of_badChecksum hle ((badHeader_set_inner (by omega) (by omega) b).trans hh)
      (badChecksum_set_checksum hk h hne)
  case detected =>
    exact parseResponse_of_badChecksum hle ((badHeader_set_inner hlo (by omega) b).trans hh)
      (Bool.eq_true_of_not_eq_false (mt (hmissed hhi).1 hno))
  case missed =>
    have hvalid := parseResponse_of_valid (k := k) hle ((badHeader_set_inner hlo (by omega) b).trans hh)
      ((hmissed hhi).2 hyes)
    rwa [List.take_of_length_le (by rw [List.length_set, hlen])] at hvalid

/-! ## Synthetic frames (R97) -/

/-- The digit byte of a decimal digit (R100). -/
def digitByte (d : Nat) : Byte := BitVec.ofNat 8 (0x30 + d)

theorem toNat_digitByte {d : Nat} (h : d ≤ 9) : (digitByte d).toNat = 0x30 + d := by
  rw [digitByte, BitVec.toNat_ofNat]
  omega

theorem isDigit_digitByte {d : Nat} (h : d ≤ 9) : isDigit Config.params (digitByte d) = true := by
  have hval := toNat_digitByte h
  have hlow : 0x30 ≤ (digitByte d).toNat := by omega
  have hhigh : (digitByte d).toNat ≤ 0x30 + 9 := by omega
  exact Bool.and_eq_true_iff.2 ⟨decide_eq_true hlow, decide_eq_true hhigh⟩

theorem digitOf_digitByte {d : Nat} (h : d ≤ 9) : digitOf Config.params (digitByte d) = d := by
  rw [digitOf, toNat_digitByte h]
  exact Nat.add_sub_cancel_left 0x30 d

/-- The reading of a frame without a byte that is no digit. -/
theorem decodeReading_of_digits {P : Params} {f : List Byte} (h : digitRangeOf P f = false) (k : Nat) :
    decodeReading P k f =
      { mag := BitVec.ofNat 17 (magnitude P f)
        sval := signed (statusNeg (frameByte f P.statusOff)) (magnitude P f)
        dp := statusDp (frameByte f P.statusOff)
        neg := statusNeg (frameByte f P.statusOff)
        rng := false } := by
  simp [decodeReading, h]

theorem digitRangeOf_eq_false_iff {P : Params} {f : List Byte} :
    digitRangeOf P f = false ↔ ∀ b ∈ digitBytes P f, isDigit P b = true := by
  simp [digitRangeOf]

/-- The weights of R102. -/
theorem magnitude_eq_weighted (f : List Byte) : magnitude Config.params f =
    10000 * digitOf Config.params (frameByte f 2) + 1000 * digitOf Config.params (frameByte f 3) +
    100 * digitOf Config.params (frameByte f 4) + 10 * digitOf Config.params (frameByte f 5) +
    digitOf Config.params (frameByte f 6) := by
  have hsum (a b c d e : Nat) : [10000 * a, 1000 * b, 100 * c, 10 * d, 1 * e].sum =
      10000 * a + 1000 * b + 100 * c + 10 * d + e := by
    simp only [List.sum_cons, List.sum_nil]
    omega
  exact hsum _ _ _ _ _

/-- A frame with a right header, checksum and terminator around any five digit bytes and status byte. -/
theorem parseResponse_of_synthetic (k : Nat) (b0 b1 b2 b3 b4 st : Byte) :
    let body := [0x11, 0x42, b0, b1, b2, b3, b4, st]
    let f := body ++ [ck7 Config.params body, 0x0D]
    parseResponse Config.params k f = .ok (decodeReading Config.params k f) :=
  parseResponse_of_valid (Nat.le_refl 10) (badHeader_eq_false_iff.2 ⟨rfl, rfl, rfl⟩)
    (badChecksum_eq_false_iff.2 rfl)

/-- Settles O36: the frame passes the checks by its construction, its digit bytes are digits, and their weighted sum
fits `MAG`. -/
theorem syntheticResponseRoundTrip : Obligations.SyntheticResponseRoundTrip := by
  intro k d0 d1 d2 d3 d4 st h0 h1 h2 h3 h4 digit body
  let f := body ++ [ck7 Config.params body, 0x0D]
  have hdigits : ∀ b ∈ digitBytes Config.params f, isDigit Config.params b = true := by
    change ∀ b ∈ [digitByte d0, digitByte d1, digitByte d2, digitByte d3, digitByte d4], _
    simp [isDigit_digitByte, h0, h1, h2, h3, h4]
  have hmag : magnitude Config.params f = 10000 * d0 + 1000 * d1 + 100 * d2 + 10 * d3 + d4 := by
    calc magnitude Config.params f
      _ = 10000 * digitOf Config.params (digitByte d0) + 1000 * digitOf Config.params (digitByte d1) +
          100 * digitOf Config.params (digitByte d2) + 10 * digitOf Config.params (digitByte d3) +
          digitOf Config.params (digitByte d4) := magnitude_eq_weighted f
      _ = 10000 * d0 + 1000 * d1 + 100 * d2 + 10 * d3 + d4 := by
        simp only [digitOf_digitByte, h0, h1, h2, h3, h4]
  refine ⟨_, parseResponse_of_synthetic k (digit d0) (digit d1) (digit d2) (digit d3) (digit d4) st, ?_⟩
  rw [decodeReading_of_digits (digitRangeOf_eq_false_iff.2 hdigits)]
  refine ⟨?mag, rfl, rfl, rfl⟩
  case mag =>
    rw [BitVec.toNat_ofNat, hmag]
    omega

end Sys2Proof.Machine
end

section
/-! SUPPORT. The family of 43_digit_decoder.md: the digit bytes (R100), an accepted frame's reading (R102 to R106), the
number it stands for (R107, R108), the bits it ignores (R109) and the forms of the magnitude (R110). -/

namespace Sys2Proof.Machine

/-! ## Digit bytes (R100) -/

theorem isDigit_iff {b : Byte} : isDigit Config.params b = true ↔ 0x30 ≤ b.toNat ∧ b.toNat ≤ 0x39 :=
  Bool.and_eq_true_iff.trans (and_congr decide_eq_true_iff decide_eq_true_iff)

theorem digitOf_eq_sub (b : Byte) : digitOf Config.params b = b.toNat - 0x30 := rfl

theorem digitOf_le_nine {b : Byte} (h : isDigit Config.params b = true) : digitOf Config.params b ≤ 9 := by
  obtain ⟨-, hhi⟩ := isDigit_iff.1 h
  rw [digitOf_eq_sub]
  omega

theorem lowNibble_eq_mod (b : Byte) : lowNibble b = b.toNat % 16 := BitVec.extractLsb'_toNat ..

theorem lowNibble_eq_digitOf {b : Byte} (h : isDigit Config.params b = true) :
    lowNibble b = digitOf Config.params b := by
  obtain ⟨hlo, hhi⟩ := isDigit_iff.1 h
  rw [lowNibble_eq_mod, digitOf_eq_sub]
  omega

theorem highNibble_eq_three {b : Byte} (h : isDigit Config.params b = true) : b.extractLsb' 4 4 = 0x3 := by
  obtain ⟨hlo, hhi⟩ := isDigit_iff.1 h
  have hval : b.toNat / 16 % 16 = 3 := by omega
  rw [← BitVec.toNat_inj, BitVec.extractLsb'_toNat, Nat.shiftRight_eq_div_pow]
  exact hval

/-- Settles O38: the range of a digit byte, and its value and nibbles read off that range. -/
theorem digitBytesAreAsciiDigits : Obligations.DigitBytesAreAsciiDigits :=
  fun b => ⟨isDigit_iff, fun h =>
    ⟨digitOf_eq_sub b, digitOf_le_nine h, lowNibble_eq_digitOf h, highNibble_eq_three h⟩⟩

/-! ## The digit bytes of a frame (R53, R103) -/

/-- The digit bytes stand at offsets 2 to 6. -/
theorem forall_mem_digitBytes_iff {f : List Byte} {p : Byte → Prop} :
    (∀ b ∈ digitBytes Config.params f, p b) ↔ ∀ off, 2 ≤ off → off ≤ 6 → p (frameByte f off) := by
  simp only [digitBytes, List.forall_mem_map, List.mem_range]
  constructor
  · intro h off hlo hhi
    obtain ⟨i, rfl⟩ := Nat.exists_eq_add_of_le hlo
    have hi : i < 5 := by omega
    exact h i hi
  · intro h i (hi : i < 5)
    exact h (2 + i) (by omega) (by omega)

theorem State.digitRangeOf_rxFrame_eq_false_iff {s : State} : digitRangeOf Config.params s.rxFrame = false ↔
    ∀ off, 2 ≤ off → off ≤ 6 → 0x30 ≤ (s.rxByte off).toNat ∧ (s.rxByte off).toNat ≤ 0x39 := by
  rw [digitRangeOf_eq_false_iff, forall_mem_digitBytes_iff]
  refine forall_congr' fun off => imp_congr_right fun _ => imp_congr_right fun hhi => ?_
  rw [s.frameByte_rxFrame (by omega), isDigit_iff]

theorem State.digitRangeOf_rxFrame_iff {s : State} : digitRangeOf Config.params s.rxFrame = true ↔
    ∃ off, 2 ≤ off ∧ off ≤ 6 ∧ ¬(0x30 ≤ (s.rxByte off).toNat ∧ (s.rxByte off).toNat ≤ 0x39) := by
  rw [← Bool.not_eq_false, State.digitRangeOf_rxFrame_eq_false_iff]
  simp only [not_forall, exists_prop]

/-! ## The magnitude (R102, R110) -/

theorem magnitude_le {f : List Byte} (h : ∀ b ∈ digitBytes Config.params f, isDigit Config.params b = true) :
    magnitude Config.params f ≤ 99999 := by
  have hle (off : Nat) (hlo : 2 ≤ off) (hhi : off ≤ 6) : digitOf Config.params (frameByte f off) ≤ 9 :=
    digitOf_le_nine (forall_mem_digitBytes_iff.1 h off hlo hhi)
  have h2 := hle 2 (by decide) (by decide)
  have h3 := hle 3 (by decide) (by decide)
  have h4 := hle 4 (by decide) (by decide)
  have h5 := hle 5 (by decide) (by decide)
  have h6 := hle 6 (by decide) (by decide)
  rw [magnitude_eq_weighted]
  omega

/-- Horner's scheme is the weighted sum of whatever `digitOf` answers. -/
theorem magnitudeHorner_eq (f : List Byte) : magnitudeHorner Config.params f = magnitude Config.params f := by
  have hsum (a b c d e : Nat) : ((((0 * 10 + a) * 10 + b) * 10 + c) * 10 + d) * 10 + e =
      10000 * a + 1000 * b + 100 * c + 10 * d + e := by omega
  rw [magnitude_eq_weighted]
  exact hsum _ _ _ _ _

theorem magnitudeNibbles_eq {f : List Byte} (h : ∀ b ∈ digitBytes Config.params f, isDigit Config.params b = true) :
    magnitudeNibbles Config.params f = magnitude Config.params f := by
  refine congrArg List.sum (List.map_congr_left fun i hi => ?_)
  rw [lowNibble_eq_digitOf (h _ (List.mem_map_of_mem hi))]

/-- Settles O46: Horner's scheme equals the weighted sum always, the low nibbles on digits; the byte 0xB1 of V-P13 is no
digit and its low nibble is one. -/
theorem magnitudeFormsAgreeOnDigits : Obligations.MagnitudeFormsAgreeOnDigits :=
  ⟨fun f h => ⟨magnitudeHorner_eq f, magnitudeNibbles_eq h⟩,
    [0x11, 0x42, 0x30, 0x30, 0xB1, 0x32, 0x35, 0x02, 0x4D, 0x0D], by decide⟩

/-! ## The signed value (R106) -/

theorem toInt_signed (neg : Bool) {m : Nat} (h : m ≤ 99999) :
    (signed neg m).toInt = if neg then -(m : Int) else m := by
  cases neg with
  | false =>
    have hval : (signed false m).toInt = (m : Int).bmod (2 ^ 18) := BitVec.toInt_ofNat ..
    rw [hval, Int.bmod_eq_of_le (by omega) (by omega)]
    rfl
  | true =>
    have hval : (signed true m).toInt = (0 - (m : Int)).bmod (2 ^ 18) := BitVec.toInt_ofInt ..
    rw [hval, Int.bmod_eq_of_le (by omega) (by omega), Int.zero_sub]
    rfl

/-- The signed value of a magnitude held in `MAG`, as R27 states it. -/
theorem signed_toNat (neg : Bool) (mag : BitVec 17) :
    signed neg mag.toNat = if neg then -(mag.setWidth 18) else mag.setWidth 18 := by
  cases neg <;> simp [signed, BitVec.ofInt_neg]

/-- The same, the negative of a magnitude written as the unsigned number that stands for it. -/
theorem signed_toNat_eq_ofNat (neg : Bool) (mag : BitVec 17) :
    signed neg mag.toNat = if neg then BitVec.ofNat 18 (2 ^ 18 - mag.toNat) else mag.setWidth 18 := by
  cases neg with
  | false => exact signed_toNat false mag
  | true =>
    have hlt : mag.toNat < 2 ^ 17 := mag.isLt
    refine (signed_toNat true mag).trans (BitVec.eq_of_toNat_eq ?_)
    simp only [if_true, BitVec.toNat_neg, BitVec.toNat_setWidth, BitVec.toNat_ofNat]
    omega

/-! ## An accepted frame (R90, R102 to R106) -/

theorem execParse_accepts {s : State} (hc : 10 ≤ s.rxcnt.toNat) (h0 : s.rxByte 0 = 0x11) (h1 : s.rxByte 1 = 0x42)
    (h9 : s.rxByte 9 = 0x0D) (hk : ck7 Config.params ((List.range 8).map s.rxByte) = s.rxByte 8) :
    execParse s = .next (s.accept (decodeReading Config.params s.pushes s.rxFrame)) :=
  execParse_of_valid hc (State.badHeader_rxFrame_eq_false_iff.2 ⟨h0, h1, h9⟩) (badChecksum_eq_false_iff.2 hk)

theorem eq_accept_of_execParse_ok {s t : State} (h : execParse s = .next t) (hok : t.result = 1) :
    t = s.accept (decodeReading Config.params s.pushes s.rxFrame) := by
  obtain ⟨code, hcode, rfl⟩ | ht := execParse_reject_or_accept h
  · exact absurd hok hcode
  · exact ht

theorem State.dp_decodeReading_rxFrame (s : State) :
    (decodeReading Config.params s.pushes s.rxFrame).dp = (s.rxByte 7).extractLsb' 0 2 :=
  congrArg statusDp (s.frameByte_rxFrame (off := 7) (by decide))

theorem State.neg_decodeReading_rxFrame (s : State) :
    (decodeReading Config.params s.pushes s.rxFrame).neg = (s.rxByte 7).getLsbD 2 :=
  congrArg statusNeg (s.frameByte_rxFrame (off := 7) (by decide))

/-- The magnitude of a frame of digits fits `MAG`, and `SVAL` is `MAG` with the sign. -/
theorem decodeReading_mag_sval_of_digits {f : List Byte} (h : digitRangeOf Config.params f = false) (k : Nat) :
    let r := decodeReading Config.params k f
    r.mag.toNat = magnitude Config.params f ∧ r.mag.toNat ≤ 99999 ∧ r.sval = signed r.neg r.mag.toNat := by
  have hle := magnitude_le (digitRangeOf_eq_false_iff.1 h)
  have hfits : (BitVec.ofNat 17 (magnitude Config.params f)).toNat = magnitude Config.params f := by
    rw [BitVec.toNat_ofNat]
    omega
  simp only [decodeReading_of_digits h]
  exact ⟨hfits, hfits.trans_le hle, congrArg (signed _) hfits.symm⟩

/-- Settles O39: the frame is accepted, its weighted sum fits `MAG`, and `SVAL` is that sum with the sign. -/
theorem parseDecodesDigitFrames : Obligations.ParseDecodesDigitFrames := by
  intro s hc h0 h1 h9 hk hdigits d
  have hrng := State.digitRangeOf_rxFrame_eq_false_iff.2 hdigits
  obtain ⟨hmag, hle, hsval⟩ := decodeReading_mag_sval_of_digits hrng s.pushes
  refine ⟨_, execParse_accepts hc h0 h1 h9 hk, hmag.trans (magnitude_eq_weighted s.rxFrame), hle,
    s.dp_decodeReading_rxFrame, s.neg_decodeReading_rxFrame, ?sval, ?toInt, hrng, rfl, rfl⟩
  case sval => exact hsval.trans (signed_toNat_eq_ofNat _ _)
  case toInt => exact (congrArg BitVec.toInt hsval).trans (toInt_signed _ hle)

/-- Settles O40: the frame is accepted whatever its digit bytes are, and the flag tells whether all are digits. -/
theorem parseFlagsNonDigitFrames : Obligations.ParseFlagsNonDigitFrames :=
  fun s hc h0 h1 h9 hk => ⟨_, execParse_accepts hc h0 h1 h9 hk, rfl, State.digitRangeOf_rxFrame_iff,
    s.dp_decodeReading_rxFrame, s.neg_decodeReading_rxFrame, rfl⟩

/-- Settles O41: only an acceptance leaves `RESULT` at OK, and it takes both from the status byte. -/
theorem acceptanceTakesStatusBits : Obligations.AcceptanceTakesStatusBits := by
  intro s t h hok
  obtain rfl := eq_accept_of_execParse_ok h hok
  exact ⟨s.dp_decodeReading_rxFrame, Nat.le_of_lt_succ (BitVec.isLt _), s.neg_decodeReading_rxFrame⟩

/-! ## The number a reading stands for (R107, R108) -/

theorem State.value_of_digits {s : State} (h : s.digitRange = false) :
    s.value = some ((-1 : ℚ) ^ s.neg.toNat * s.mag.toNat / 10 ^ s.dp.toNat) := by
  rw [value, h]
  rfl

theorem State.value_of_digitRange {s : State} (h : s.digitRange = true) : s.value = none := if_pos h

theorem neg_one_pow_toNat (neg : Bool) : (-1 : ℚ) ^ neg.toNat = if neg then -1 else 1 := by
  cases neg <;> simp

/-- Under the invariant `SVAL` is the signed number of an accepted frame of digits (R27). -/
theorem State.Inv.toInt_sval {s : State} (hs : s.Inv) (hok : s.result = 1) (hrng : s.digitRange = false) :
    s.sval.toInt = if s.neg then -(s.mag.toNat : Int) else s.mag.toNat := by
  obtain ⟨hle, hsval⟩ := hs.reading hok hrng
  rw [hsval, ← signed_toNat, toInt_signed _ hle]

theorem State.Inv.toInt_sval_bounds {s : State} (hs : s.Inv) (hok : s.result = 1) (hrng : s.digitRange = false) :
    -99999 ≤ s.sval.toInt ∧ s.sval.toInt ≤ 99999 := by
  obtain ⟨hle, -⟩ := hs.reading hok hrng
  rw [hs.toInt_sval hok hrng]
  split <;> omega

/-- Settles O43: the signed numerator is `SVAL`, whose size the invariant bounds. -/
theorem readingStandsForASignedDecimal : Obligations.ReadingStandsForASignedDecimal := by
  refine ⟨fun s hs hok hrng => ?_, fun _ => State.value_of_digitRange⟩
  obtain ⟨hlo, hhi⟩ := hs.toInt_sval_bounds hok hrng
  have hnum : (-1 : ℚ) ^ s.neg.toNat * s.mag.toNat = s.sval.toInt := by
    rw [neg_one_pow_toNat, hs.toInt_sval hok hrng]
    cases s.neg <;> simp
  have hpow : (0 : ℚ) ≤ 10 ^ s.dp.toNat := by positivity
  refine ⟨_, State.value_of_digits hrng, by rw [neg_one_pow_toNat], by rw [hnum], ?lower, ?upper⟩ <;> rw [hnum]
  case lower => exact div_le_div_of_nonneg_right (by exact_mod_cast hlo) hpow
  case upper => exact div_le_div_of_nonneg_right (by exact_mod_cast hhi) hpow

/-- Settles O44: five zeros are digits, so the reading is that of `parseDecodesDigitFrames`. -/
theorem negativeZeroIsDelivered : Obligations.NegativeZeroIsDelivered := by
  intro s hc h0 h1 h9 hk hzero hsign
  obtain ⟨t, ht, hmag, -, -, hneg, hsval, -, hrng, hok, -⟩ :=
    parseDecodesDigitFrames s hc h0 h1 h9 hk fun off hlo hhi => by simp [hzero off hlo hhi]
  have hneg1 : t.neg = true := hneg.trans hsign
  have hmag0 : t.mag = 0 := by
    refine BitVec.eq_of_toNat_eq (hmag.trans ?_)
    simp [hzero]
  refine ⟨t, ht, hok, hneg1, hmag0, ?sval, ?value⟩
  case sval =>
    rw [hsval, hneg1, hmag0]
    rfl
  case value => simp [State.value_of_digits hrng, hmag0]

/-! ## What the decoder does not look at (R109) -/

/-- The decimal-place count and the sign lie in the status bits 2:0. -/
theorem statusDp_congr {st st' : Byte} (h : statusUsed st = statusUsed st') : statusDp st = statusDp st' := by
  have hpart (b : Byte) : statusDp b = (statusUsed b).extractLsb' 0 2 := by
    ext i hi
    simp [statusDp, statusUsed]
  rw [hpart, hpart, h]

theorem statusNeg_congr {st st' : Byte} (h : statusUsed st = statusUsed st') : statusNeg st = statusNeg st' := by
  have hpart (b : Byte) : statusNeg b = (statusUsed b).getLsbD 2 := by
    simp [statusNeg, statusUsed]
  rw [hpart, hpart, h]

section
variable {P : Params} {f g : List Byte}

theorem digitBytes_congr (h : ∀ i < P.nDigits, frameByte f (P.digitOff i) = frameByte g (P.digitOff i)) :
    digitBytes P f = digitBytes P g :=
  List.map_congr_left fun i hi => h i (List.mem_range.1 hi)

theorem magnitude_congr (h : ∀ i < P.nDigits, frameByte f (P.digitOff i) = frameByte g (P.digitOff i)) :
    magnitude P f = magnitude P g :=
  congrArg List.sum (List.map_congr_left fun i hi => by rw [h i (List.mem_range.1 hi)])

/-- A reading depends on the digit bytes and on the status bits 2:0 alone. -/
theorem decodeReading_congr (h : ∀ i < P.nDigits, frameByte f (P.digitOff i) = frameByte g (P.digitOff i))
    (hst : statusUsed (frameByte f P.statusOff) = statusUsed (frameByte g P.statusOff)) (k : Nat) :
    decodeReading P k f = decodeReading P k g := by
  have hrng : digitRangeOf P f = digitRangeOf P g := by rw [digitRangeOf, digitRangeOf, digitBytes_congr h]
  simp only [decodeReading]
  rw [hrng, digitBytes_congr h, magnitude_congr h, statusDp_congr hst, statusNeg_congr hst, hst]

end

theorem eq_decodeReading_of_parseResponse_ok {k : Nat} {bs : List Byte} {r : Reading}
    (he : parseResponse Config.params k bs = .ok r) : r = decodeReading Config.params k (bs.take 10) := by
  obtain ⟨hlen, hh, hk⟩ := valid_of_parseResponse_ok he
  exact ParseOutcome.ok.inj (he.symm.trans (parseResponse_of_valid hlen hh hk))

/-- Settles O45: the two readings are decoded from the same digit bytes and the same status bits 2:0. -/
theorem statusBits73AreIgnored : Obligations.StatusBits73AreIgnored := by
  intro k f g r r' hf hg hr hr' hdigits hst
  rw [eq_decodeReading_of_parseResponse_ok hr, eq_decodeReading_of_parseResponse_ok hr',
    List.take_of_length_le hf.le, List.take_of_length_le hg.le]
  have hbyte {off : Nat} (hoff : off < 10) : f[off]? = some (frameByte f off) ∧ g[off]? = some (frameByte g off) :=
    ⟨getElem?_eq_some_frameByte (hf ▸ hoff), getElem?_eq_some_frameByte (hg ▸ hoff)⟩
  refine decodeReading_congr (fun i (hi : i < 5) => ?digit) ?status k
  case digit =>
    obtain ⟨hfi, hgi⟩ := hbyte (off := 2 + i) (by omega)
    exact Option.some.inj (hfi.symm.trans ((hdigits (2 + i) (by omega) (by omega)).trans hgi))
  case status =>
    obtain ⟨hf7, hg7⟩ := hbyte (off := 7) (by decide)
    rw [hf7, hg7] at hst
    exact Option.some.inj hst

end Sys2Proof.Machine
end

section
/-! SUPPORT. The family of 45_host_context.md: the receive path (R86 to R89) through a run, and the host's polling tick
(R132). -/

namespace Sys2Proof

/-- The operations that change what has been received. -/
def Instr.isRx : Instr → Bool
  | .rxpush _ | .rxclr => true
  | .nop | .build _ _ _ | .txpop | .parse | .txclr => false

end Sys2Proof

namespace Sys2Proof.Machine

/-! ## What the other operations leave of the receive side -/

/-- The bytes received, the draws of the unwritten ones, the overflow flag and what is presented next are the same in
both states. -/
structure State.SameRx (s t : State) : Prop where
  rxbuf : t.rxbuf = s.rxbuf
  resets : t.resets = s.resets
  rxcnt : t.rxcnt = s.rxcnt
  rxOvf : t.rxOvf = s.rxOvf
  pending : t.pending = s.pending

theorem execTxpop_sameRx {s t : State} (h : execTxpop s = .next t) : s.SameRx t := by
  obtain ⟨-, rfl⟩ | ⟨-, rfl⟩ := execTxpop_next h <;> exact ⟨rfl, rfl, rfl, rfl, rfl⟩

theorem execParse_sameRx {s t : State} (h : execParse s = .next t) : s.SameRx t := by
  obtain ⟨code, -, rfl⟩ | rfl := execParse_reject_or_accept h <;> exact ⟨rfl, rfl, rfl, rfl, rfl⟩

theorem exec_sameRx {i : Instr} (hi : i.isRx = false) {s t : State} (h : exec i s = .next t) : s.SameRx t := by
  cases i with
  | nop =>
    obtain rfl := execNop_next h
    exact ⟨rfl, rfl, rfl, rfl, rfl⟩
  | build a c p =>
    obtain rfl := execBuild_next h
    exact ⟨rfl, rfl, rfl, rfl, rfl⟩
  | txpop => exact execTxpop_sameRx h
  | rxpush b => exact nomatch hi
  | parse => exact execParse_sameRx h
  | rxclr => exact nomatch hi
  | txclr =>
    obtain rfl := execTxclr_next h
    exact ⟨rfl, rfl, rfl, rfl, rfl⟩

theorem State.rxBytes_congr {s t : State} (hm : t.rxbuf = s.rxbuf) (hr : t.resets = s.resets)
    (hc : t.rxcnt = s.rxcnt) : t.rxBytes = s.rxBytes := by
  rw [rxBytes, rxBytes, hc, rxByte_congr hm hr]

/-! ## Receiving bytes (R86, R87) -/

/-- Since the receive side was last empty the bytes `bs` have arrived: the first ten are in the buffer, and `RX_OVF`
tells whether there were more. -/
structure State.HasReceived (s : State) (bs : List Byte) : Prop where
  rxBytes : s.rxBytes = bs.take 10
  rxOvf : s.rxOvf = decide (10 < bs.length)

theorem execRxclr_hasReceived {s t : State} (h : execRxclr s = .next t) : t.HasReceived [] := by
  rw [execRxclr_next h]
  exact ⟨rfl, rfl⟩

/-- RXPUSH into a buffer with room appends its byte to those in the buffer. -/
theorem execRxpush_rxBytes_of_lt {b : Byte} {s t : State} (h : execRxpush b s = .next t) (hc : s.rxcnt.toNat < 10) :
    t.rxBytes = s.rxBytes ++ [b] := by
  obtain ⟨-, ht⟩ | ⟨hfull, -⟩ := execRxpush_next h
  · have hcnt : t.rxcnt.toNat = s.rxcnt.toNat + 1 := by rw [ht]; exact toNat_rxcnt_add_one hc
    have hbyte := State.rxByte_of_store (s := s) (t := t) (b := b) (by rw [ht]) (by rw [ht])
    have hold : (List.range s.rxcnt.toNat).map t.rxByte = (List.range s.rxcnt.toNat).map s.rxByte :=
      List.map_congr_left fun off hoff => by rw [hbyte, if_neg (List.mem_range.1 hoff).ne]
    rw [State.rxBytes, hcnt, List.range_succ, List.map_append, hold, List.map_singleton, hbyte, if_pos rfl,
      State.rxBytes]
  · omega

section
variable {s t : State} {bs : List Byte}

theorem State.HasReceived.toNat_rxcnt (hs : s.HasReceived bs) : s.rxcnt.toNat = min 10 bs.length := by
  rw [← s.length_rxBytes, hs.rxBytes, List.length_take]

theorem State.HasReceived.of_sameRx (hs : s.HasReceived bs) (h : s.SameRx t) : t.HasReceived bs where
  rxBytes := by rw [rxBytes_congr h.rxbuf h.resets h.rxcnt, hs.rxBytes]
  rxOvf := by rw [h.rxOvf, hs.rxOvf]

theorem State.HasReceived.withPending (hs : s.HasReceived bs) (rest : List Event) :
    (s.withPending rest).HasReceived bs where
  rxBytes := (rxBytes_congr rfl rfl rfl).trans hs.rxBytes
  rxOvf := hs.rxOvf

/-- RXPUSH receives its byte, be it stored or dropped. -/
theorem execRxpush_hasReceived {b : Byte} (hs : s.HasReceived bs) (h : execRxpush b s = .next t) :
    t.HasReceived (bs ++ [b]) := by
  have hcnt := hs.toNat_rxcnt
  have hlen : (bs ++ [b]).length = bs.length + 1 := List.length_append
  obtain ⟨hc, ht⟩ | ⟨hc, ht⟩ := execRxpush_next h
  · have hroom : bs.length < 10 := by omega
    refine ⟨?stored, ?room⟩
    case stored =>
      rw [execRxpush_rxBytes_of_lt h hc, hs.rxBytes, List.take_of_length_le hroom.le,
        List.take_of_length_le (hlen ▸ hroom)]
    case room =>
      have hovf : t.rxOvf = s.rxOvf := by rw [ht]
      rw [hovf, hs.rxOvf, hlen, decide_eq_decide]
      omega
  · have hfull : 10 ≤ bs.length := by omega
    refine ⟨?dropped, ?overflow⟩
    case dropped =>
      rw [State.rxBytes_congr (s := s) (by rw [ht]) (by rw [ht]) (by rw [ht]), hs.rxBytes,
        List.take_append_of_le_length hfull]
    case overflow =>
      rw [ht, hlen]
      exact (decide_eq_true (by omega)).symm

/-- What may stand between an RXCLR and the PARSE of what has arrived since: no reset event and no other RXCLR. -/
def Event.keepsReceived (e : Event) : Prop := e ≠ .reset ∧ e.decoded ≠ some .rxclr

/-- A step with such an event presented receives the byte the event hands over, if any. -/
theorem step_hasReceived {e : Event} {rest : List Event} (hp : s.pending = e :: rest) (he : e.keepsReceived)
    (hs : s.HasReceived bs) :
    ∃ t, step s = .next t ∧ t.pending = rest ∧ t.HasReceived (bs ++ e.pushed.toList) := by
  obtain ⟨hreset, hrxclr⟩ := he
  have hs' := hs.withPending rest
  cases hi : e.decoded with
  | none =>
    rw [Event.pushed, hi, Option.toList_none, List.append_nil]
    exact ⟨_, step_of_not_decoded hp hreset hi, rfl, hs'.of_sameRx ⟨rfl, rfl, rfl, rfl, rfl⟩⟩
  | some i =>
    obtain ⟨t, ht⟩ := exec_total i (s.withPending rest)
    refine ⟨t, (step_of_decoded hp hi).trans ht, ?_⟩
    rw [Event.pushed, hi]
    cases i with
    | rxpush b => exact ⟨(execRxpush_sameTx ht).pending, execRxpush_hasReceived hs' ht⟩
    | rxclr => exact absurd hi hrxclr
    | nop | build a c p | txpop | parse | txclr =>
      have hsame := exec_sameRx rfl ht
      exact ⟨hsame.pending, (List.append_nil bs).symm ▸ hs'.of_sameRx hsame⟩

end

/-- Through a list of such events, the bytes they hand over are received in their order. -/
theorem run_hasReceived {rest : List Event} (es : List Event) (hes : ∀ e ∈ es, e.keepsReceived) {s : State}
    {bs : List Byte} (hp : s.pending = es ++ rest) (hs : s.HasReceived bs) :
    ∃ t, Host.Core.run core es.length s = .next t ∧ t.pending = rest ∧
      t.HasReceived (bs ++ es.filterMap Event.pushed) := by
  induction es generalizing s bs with
  | nil => exact ⟨s, rfl, hp, by rwa [List.filterMap_nil, List.append_nil]⟩
  | cons e es ih =>
    obtain ⟨he, hes⟩ := List.forall_mem_cons.1 hes
    obtain ⟨u, hu, hpu, hsu⟩ := step_hasReceived hp he hs
    obtain ⟨t, ht, hpt, hst⟩ := ih hes hpu hsu
    refine ⟨t, (run_succ_of_step (M := core) hu es.length).trans ht, hpt, ?_⟩
    rwa [List.filterMap_eq_flatMap_toList, List.flatMap_cons, ← List.append_assoc, ← List.filterMap_eq_flatMap_toList]

/-! ## The verdict on the bytes received (R89) -/

theorem State.record_shows (s : State) (o : ParseOutcome) : (s.record o).shows o := by
  cases o with
  | tooShort | malformed | ckMismatch => rfl
  | ok r => exact ⟨rfl, rfl, rfl, rfl, rfl, rfl⟩

theorem State.record_pushes (s : State) (o : ParseOutcome) : (s.record o).pushes = s.pushes := by
  cases o <;> rfl

/-- The first ten bytes decide (R95). -/
theorem parseResponse_take (k : Nat) (bs : List Byte) :
    parseResponse Config.params k (bs.take 10) = parseResponse Config.params k bs := by
  rcases Nat.lt_or_ge bs.length 10 with h | h
  · rw [List.take_of_length_le h.le]
  · have hlen : 10 ≤ (bs.take 10).length := by rw [List.length_take_of_le h]
    rw [← parseResponse_append hlen (bs.drop 10), List.take_append_drop]

/-- PARSE shows the verdict of `parse_response` on all the bytes received, those dropped included. -/
theorem execParse_shows {s t : State} {bs : List Byte} (hs : s.HasReceived bs) (h : execParse s = .next t) :
    t.shows (parseResponse Config.params t.pushes bs) := by
  rw [execParse_eq_record, hs.rxBytes, parseResponse_take] at h
  obtain rfl := Host.Outcome.next.inj h
  rw [State.record_pushes]
  exact s.record_shows _

/-- A run goes on from where a first part of it has led. -/
theorem run_add_of_run {M : Host.Core} {m : Nat} {s t : M.State} (h : M.run m s = .next t) (k : Nat) :
    M.run (m + k) s = M.run k t := by
  induction m generalizing s with
  | zero =>
    obtain rfl := Host.Outcome.next.inj h
    rw [Nat.zero_add]
  | succ m ih =>
    rw [Nat.add_right_comm, Host.Core.run]
    rw [Host.Core.run] at h
    cases hs : M.step s with
    | next u => exact ih (by rwa [hs] at h)
    | fault r => simp [hs] at h
    | refused r => simp [hs] at h

/-! ## The polling tick (R132) -/

@[simp] theorem Event.decoded_command_encode (i : Instr) : (Event.command (encode i)).decoded = some i :=
  decoded_command_of_ok (decode_encode i)

/-- What a polling tick presents between its BUILD and its PARSE: SEND, then the bytes that arrive. -/
def sendAndPush (rs : List Byte) : List Event :=
  List.replicate 5 (.command (encode .txpop)) ++ rs.map fun b => .command (encode (.rxpush b))

theorem asmEvents_append (ls ls' : List AsmLine) : asmEvents (ls ++ ls') = asmEvents ls ++ asmEvents ls' := by
  rw [asmEvents, List.flatMap_append, List.map_append, asmEvents, asmEvents]

theorem asmEvents_map_rxpush (rs : List Byte) :
    asmEvents (rs.map fun b => .rxpush b.toNat) = rs.map fun b => .command (encode (.rxpush b)) := by
  have hpush (b : Byte) : asmPush b.toNat = encode (.rxpush b) := congrArg (assembleFields 0x3 0 0) (asmByte_toNat b)
  simp only [asmEvents, List.flatMap_map, assemble, hpush, ← List.map_eq_flatMap, List.map_map, Function.comp_def]

theorem asmEvents_pollTick (addr : Byte) (rs : List Byte) :
    asmEvents (pollTick addr rs) = .command (encode .rxclr) :: .command (encode (.build addr 0x42 0x3F)) ::
      sendAndPush rs ++ [.command (encode .parse)] := by
  have hbuild : asmBuild addr.toNat 0x42 0x3F = encode (.build addr 0x42 0x3F) :=
    congrArg (assembleFields 0x1 · 0x42 0x3F) (asmByte_toNat addr)
  rw [pollTick, asmEvents_append, asmEvents_append, asmEvents_map_rxpush, ← hbuild]
  rfl

theorem decoded_of_mem_sendAndPush {rs : List Byte} {e : Event} (h : e ∈ sendAndPush rs) :
    e.decoded = some .txpop ∨ ∃ b, e.decoded = some (.rxpush b) := by
  rw [sendAndPush, List.mem_append, List.mem_map] at h
  obtain h | ⟨b, -, rfl⟩ := h
  · rw [List.eq_of_mem_replicate h]
    exact .inl (Event.decoded_command_encode _)
  · exact .inr ⟨b, Event.decoded_command_encode _⟩

theorem Event.ne_reset_of_decoded {e : Event} {i : Instr} (h : e.decoded = some i) : e ≠ .reset := by
  rintro rfl
  exact nomatch h

theorem keepsFrame_of_mem_sendAndPush {rs : List Byte} {e : Event} (h : e ∈ sendAndPush rs) : e.keepsFrame := by
  obtain hd | ⟨b, hd⟩ := decoded_of_mem_sendAndPush h <;>
    exact ⟨Event.ne_reset_of_decoded hd, by simp [hd], by simp [hd]⟩

theorem keepsReceived_of_mem_sendAndPush {rs : List Byte} {e : Event} (h : e ∈ sendAndPush rs) :
    e.keepsReceived := by
  obtain hd | ⟨b, hd⟩ := decoded_of_mem_sendAndPush h <;> exact ⟨Event.ne_reset_of_decoded hd, by simp [hd]⟩

theorem countP_txpop_sendAndPush (rs : List Byte) :
    (sendAndPush rs).countP (fun e => e.decoded == some .txpop) = 5 := by
  simp [sendAndPush]

theorem filterMap_pushed_sendAndPush (rs : List Byte) : (sendAndPush rs).filterMap Event.pushed = rs := by
  simp [sendAndPush, Event.pushed, List.filterMap_map, Function.comp_def]

/-- From an empty receive side, the read command is sent (R81) and the bytes that arrive are received. -/
theorem run_build_sendAndPush {u : State} {addr : Byte} {rs : List Byte} {rest : List Event}
    (hp : u.pending = .command (encode (.build addr 0x42 0x3F)) :: sendAndPush rs ++ rest) (hu : u.HasReceived []) :
    ∃ v : State, Host.Core.run core ((sendAndPush rs).length + 1) u = .next v ∧
      v.txwire = u.txwire ++ [addr, 0x42, 0x3F, ck7 Config.params [addr, 0x42, 0x3F], 0x0D] ∧ v.txptr = 5 ∧
      v.HasReceived rs ∧ v.pending = rest := by
  obtain ⟨v, hv, hwire, hptr, hpv⟩ := fiveTxpopsSendTheBuiltFrame u addr 0x42 0x3F _ rest hp
    (fun _ => keepsFrame_of_mem_sendAndPush) (countP_txpop_sendAndPush rs)
  have hbuild : (Event.command (encode (.build addr 0x42 0x3F))).keepsReceived := by simp [Event.keepsReceived]
  obtain ⟨v', hv', -, hrcv⟩ := run_hasReceived (.command (encode (.build addr 0x42 0x3F)) :: sendAndPush rs)
    (List.forall_mem_cons.2 ⟨hbuild, fun _ => keepsReceived_of_mem_sendAndPush⟩) hp hu
  obtain rfl : v = v' := Host.Outcome.next.inj (hv.symm.trans hv')
  refine ⟨v, hv, hwire, hptr, ?received, hpv⟩
  case received =>
    rwa [List.nil_append, List.filterMap_cons_none (by simp [Event.pushed]), filterMap_pushed_sendAndPush] at hrcv

/-- Settles O55: RXCLR empties the receive side, the read command is sent and the bytes are received, and PARSE judges
them and leaves the transmit side. -/
theorem pollingTickSendsReadAndJudgesResponse : Obligations.PollingTickSendsReadAndJudgesResponse := by
  intro s addr rs rest hp
  rw [asmEvents_pollTick] at hp ⊢
  rw [List.append_assoc] at hp
  obtain ⟨u, hu⟩ := exec_total .rxclr (s.withPending _)
  have hrxclr : step s = .next u := (step_of_decoded hp (Event.decoded_command_encode .rxclr)).trans hu
  have hsame := exec_sameTx rfl hu
  obtain ⟨v, hv, hwire, hptr, hrcv, hpv⟩ := run_build_sendAndPush hsame.pending (execRxclr_hasReceived hu)
  obtain ⟨t, ht⟩ := exec_total .parse (v.withPending rest)
  have hparse : step v = .next t := (step_of_decoded hpv (Event.decoded_command_encode .parse)).trans ht
  have hsame' := execParse_sameTx ht
  have hshows := execParse_shows (hrcv.withPending rest) ht
  refine ⟨t, ?run, ?wire, hsame'.txptr.trans hptr, hshows, fun hshort => ?short, hsame'.pending⟩
  case run =>
    rw [List.length_append]
    calc core.run _ s
      _ = core.run 1 v := run_add_of_run ((run_succ_of_step (M := core) hrxclr _).trans hv) 1
      _ = .next t := run_succ_of_step (M := core) hparse 0
  case wire => rw [hsame'.txwire, State.withPending_txwire, hwire, hsame.txwire, State.withPending_txwire]
  case short => rwa [parseResponse_of_short hshort] at hshows

end Sys2Proof.Machine
end

section
/-! SUPPORT. The family of 60_exceptions.md: the status outputs and the events that clear them (R143). -/

namespace Sys2Proof.Machine

/-! ## The outputs of one state (R20) -/

theorem State.rdErr_iff_mem (s : State) : s.rdErr = true ↔ s.result ∈ [2, 3, 4] := by
  simp [s.rdErr_iff]

theorem State.not_rdValid_and_rdErr (s : State) : ¬(s.rdValid = true ∧ s.rdErr = true) := by
  rintro ⟨hv, he⟩
  rw [s.rdValid_iff] at hv
  rw [s.rdErr_iff_mem, hv] at he
  exact absurd he (by decide)

theorem State.rdValid_congr {s t : State} (h : t.result = s.result) : t.rdValid = s.rdValid :=
  congrArg (· == resultOk) h

theorem State.rdErr_congr {s t : State} (h : t.result = s.result) : t.rdErr = s.rdErr := by
  rw [rdErr, rdErr, h]

/-! ## What an operation leaves of the flags -/

theorem exec_illcmd {i : Instr} {s t : State} (h : exec i s = .next t) : t.illcmd = s.illcmd := by
  obtain ⟨u, hu, hill, -⟩ := exec_ignoresIllcmd i s
  obtain rfl := Host.Outcome.next.inj (hu.symm.trans h)
  exact hill

/-- PARSE and RXCLR are the only operations that write `RESULT` (R22). -/
theorem exec_result_of_ne_parse_of_ne_rxclr {i : Instr} (hparse : i ≠ .parse) (hrxclr : i ≠ .rxclr) {s t : State}
    (h : exec i s = .next t) : t.result = s.result := by
  cases i with
  | nop => rw [execNop_next h]
  | build a c p => rw [execBuild_next h]
  | txpop => obtain ⟨-, rfl⟩ | ⟨-, rfl⟩ := execTxpop_next h <;> rfl
  | rxpush b => obtain ⟨-, rfl⟩ | ⟨-, rfl⟩ := execRxpush_next h <;> rfl
  | parse => exact absurd rfl hparse
  | rxclr => exact absurd rfl hrxclr
  | txclr => rw [execTxclr_next h]

/-! ## What a step leaves of the flags -/

/-- The next event presented is the word of the operation `i`. -/
def State.presents (s : State) (i : Instr) : Prop := s.pending.head?.bind Event.decoded = some i

/-- A step is a reset event, the operation presented, or neither: then it leaves `RESULT` and `RX_OVF`, and `ILLCMD`
does not fall. -/
theorem step_reset_or_exec_or_keeps {s t : State} (h : step s = .next t) :
    s.pending.head? = some .reset ∨
    (∃ i rest, s.presents i ∧ exec i (s.withPending rest) = .next t) ∨
    (t.result = s.result ∧ t.rxOvf = s.rxOvf ∧ (s.illcmd = true → t.illcmd = true)) := by
  obtain ⟨-, rfl⟩ | ⟨rest, hp, rfl⟩ | ⟨w, e, rest, -, -, rfl⟩ | ⟨w, i, rest, hp, hd, hx⟩ := step_next h
  · exact .inr (.inr ⟨rfl, rfl, id⟩)
  · exact .inl (by rw [hp, List.head?_cons])
  · exact .inr (.inr ⟨rfl, rfl, fun _ => rfl⟩)
  · exact .inr (.inl ⟨i, rest, by simp [State.presents, hp, Event.decoded_command_of_ok hd], hx⟩)

section
variable {s t : State} (h : step s = .next t)
include h

theorem step_result_eq_or_clears :
    t.result = s.result ∨ s.presents .rxclr ∨ s.presents .parse ∨ s.pending.head? = some .reset := by
  obtain hreset | ⟨i, rest, hi, hx⟩ | ⟨hres, -, -⟩ := step_reset_or_exec_or_keeps h
  · exact .inr (.inr (.inr hreset))
  · by_cases hparse : i = .parse
    · exact .inr (.inr (.inl (hparse ▸ hi)))
    · by_cases hrxclr : i = .rxclr
      · exact .inr (.inl (hrxclr ▸ hi))
      · exact .inl ((exec_result_of_ne_parse_of_ne_rxclr hparse hrxclr hx).trans (s.withPending_result rest))
  · exact .inl hres

theorem step_rxOvf_or_clears (ho : s.rxOvf = true) :
    t.rxOvf = true ∨ s.presents .rxclr ∨ s.pending.head? = some .reset := by
  obtain hreset | ⟨i, rest, hi, hx⟩ | ⟨-, hovf, -⟩ := step_reset_or_exec_or_keeps h
  · exact .inr (.inr hreset)
  · by_cases hrxclr : i = .rxclr
    · exact .inr (.inl (hrxclr ▸ hi))
    · exact .inl (exec_rxOvf_of_ne_rxclr hrxclr hx ho)
  · exact .inl (hovf.trans ho)

theorem step_illcmd_or_reset (ho : s.illcmd = true) : t.illcmd = true ∨ s.pending.head? = some .reset := by
  obtain hreset | ⟨i, rest, -, hx⟩ | ⟨-, -, hill⟩ := step_reset_or_exec_or_keeps h
  · exact .inr hreset
  · exact .inl ((exec_illcmd hx).trans ((s.withPending_illcmd rest).trans ho))
  · exact .inl (hill ho)

/-! ## What RXCLR and a reset event clear (R88, R160) -/

theorem exec_of_step_of_presents {i : Instr} (hi : s.presents i) :
    ∃ rest, exec i (s.withPending rest) = .next t := by
  obtain ⟨e, he, hd⟩ := Option.bind_eq_some_iff.1 hi
  obtain ⟨rest, hp⟩ := List.head?_eq_some_iff.1 he
  exact ⟨rest, (step_of_decoded hp hd).symm.trans h⟩

theorem step_rxclr_clears (hi : s.presents .rxclr) : t.rdValid = false ∧ t.rdErr = false ∧ t.rxOvf = false := by
  obtain ⟨rest, hx⟩ := exec_of_step_of_presents h hi
  rw [execRxclr_next hx]
  exact ⟨rfl, rfl, rfl⟩

theorem step_reset_clears (hreset : s.pending.head? = some .reset) :
    t.rdValid = false ∧ t.rdErr = false ∧ t.rxOvf = false ∧ t.illcmd = false := by
  obtain ⟨rest, hp⟩ := List.head?_eq_some_iff.1 hreset
  obtain rfl := Host.Outcome.next.inj ((step_of_reset hp).symm.trans h)
  exact ⟨rfl, rfl, rfl, rfl⟩

end

/-! ## The statement -/

/-- Settles O51: `RD_VALID` and `RD_ERR` follow `RESULT`, so they fall only where a step writes it; the falls of the
two flags and the clears are one lemma each. -/
theorem statusOutputsFallOnlyAtTheirClears : Obligations.StatusOutputsFallOnlyAtTheirClears := by
  refine ⟨fun s => ⟨s.rdValid_iff, s.rdErr_iff_mem, s.not_rdValid_and_rdErr⟩, fun s t h =>
    ⟨fun hv hv' => ?rdValid, fun he he' => ?rdErr, fun ho ho' => ?rxOvf, fun hc hc' => ?illcmd,
      step_rxclr_clears h, step_reset_clears h⟩⟩
  case rdValid =>
    exact (step_result_eq_or_clears h).resolve_left fun hres =>
      Bool.eq_false_iff.1 hv' ((State.rdValid_congr hres).trans hv)
  case rdErr =>
    exact (step_result_eq_or_clears h).resolve_left fun hres =>
      Bool.eq_false_iff.1 he' ((State.rdErr_congr hres).trans he)
  case rxOvf => exact (step_rxOvf_or_clears h ho).resolve_left (Bool.eq_false_iff.1 ho')
  case illcmd => exact (step_illcmd_or_reset h hc).resolve_left (Bool.eq_false_iff.1 hc')

end Sys2Proof.Machine
end

section
/-! SUPPORT. The family of 70_reset_and_hazards.md: the reset event (R160), and bit 7 errors in an accepted frame
(R170). -/

namespace Sys2Proof.Machine

/-! ## The reset event (R160) -/

/-- Settles O9: a reset event is one whole step, and each register it leaves is the literal of R26. -/
theorem resetEventFromAnyState : Obligations.ResetEventFromAnyState :=
  fun _ _ hp => ⟨_, step_of_reset hp, rfl, rfl, rfl, rfl, rfl, rfl, rfl, rfl, rfl, rfl, rfl, rfl, rfl⟩

/-! ## A byte with bit 7 flipped -/

theorem flipBit7_ne (b : Byte) : b ^^^ 0x80 ≠ b :=
  mt xor_left_eq_self_iff.1 (by decide)

theorem statusUsed_flipBit7 (b : Byte) : statusUsed (b ^^^ 0x80) = statusUsed b := by
  calc statusUsed (b ^^^ 0x80)
    _ = statusUsed b ^^^ 0 := BitVec.extractLsb'_xor
    _ = statusUsed b := BitVec.xor_zero

/-- Two digit bytes lie below 0x80, so they do not differ in bit 7 alone. -/
theorem isDigit_flipBit7 {b : Byte} (h : isDigit Config.params b = true) :
    isDigit Config.params (b ^^^ 0x80) = false := by
  refine Bool.eq_false_iff.2 fun hflip => flipBit7_ne b (BitVec.eq_of_toNat_eq ?_)
  obtain ⟨-, hb⟩ := isDigit_iff.1 h
  obtain ⟨-, hb'⟩ := isDigit_iff.1 hflip
  have hmod := toNat_flipBit7_mod b
  omega

/-! ## An accepted frame with bit 7 of one byte flipped (R170) -/

section
variable {k : Nat} {f : List Byte} {r : Reading} {off : Nat}

/-- The masked sum does not see bit 7, so the frame is accepted with the flipped byte decoded. -/
theorem parseResponse_flipBit7 (hlen : f.length = 10) (hok : parseResponse Config.params k f = .ok r)
    (h : off < f.length) (hlo : 2 ≤ off) (hhi : off ≤ 7) :
    parseResponse Config.params k (f.set off (f[off] ^^^ 0x80)) =
      .ok (decodeReading Config.params k (f.set off (f[off] ^^^ 0x80))) := by
  have hne := flipBit7_ne f[off]
  obtain ⟨-, -, -, hmissed⟩ := singleByteErrorDetection k f r hlen hok off h _ hne
  exact hmissed hlo hhi (.inl ((byte_mod_eq_iff hne.symm).1 (toNat_flipBit7_mod f[off])))

theorem digitRangeOf_of_not_digit (hlo : 2 ≤ off) (hhi : off ≤ 6)
    (hno : isDigit Config.params (frameByte f off) = false) : digitRangeOf Config.params f = true := by
  refine Bool.eq_true_of_not_eq_false fun hrng => Bool.eq_false_iff.1 hno ?_
  exact forall_mem_digitBytes_iff.1 (digitRangeOf_eq_false_iff.1 hrng) off hlo hhi

theorem digitRangeOf_flipBit7 (hrng : digitRangeOf Config.params f = false) (h : off < f.length)
    (hlo : 2 ≤ off) (hhi : off ≤ 6) : digitRangeOf Config.params (f.set off (f[off] ^^^ 0x80)) = true := by
  have hdigit : isDigit Config.params (frameByte f off) = true :=
    forall_mem_digitBytes_iff.1 (digitRangeOf_eq_false_iff.1 hrng) off hlo hhi
  rw [frameByte_eq_getElem h] at hdigit
  refine digitRangeOf_of_not_digit hlo hhi ?_
  rw [frameByte_set_same h]
  exact isDigit_flipBit7 hdigit

/-- Bit 7 of the status byte is ignored (R109). -/
theorem decodeReading_flipBit7_status (h : 7 < f.length) :
    decodeReading Config.params k (f.set 7 (f[7] ^^^ 0x80)) = decodeReading Config.params k f := by
  refine decodeReading_congr (fun i (hi : i < 5) => ?digit) ?status k
  case digit => exact frameByte_set_other (by simp only [Params.digitOff]; omega) _
  case status =>
    change statusUsed (frameByte _ 7) = statusUsed (frameByte _ 7)
    rw [frameByte_set_same h, frameByte_eq_getElem h, statusUsed_flipBit7]

end

/-- Settles O34: the flipped frame is accepted, its reading out of range where the flipped byte was a digit, and the
old one where it was the status byte. -/
theorem bit7ErrorsPassTheChecks : Obligations.Bit7ErrorsPassTheChecks := by
  intro k f r hlen hok hrng off h g
  have hr : r = decodeReading Config.params k f := by
    rw [eq_decodeReading_of_parseResponse_ok hok, List.take_of_length_le hlen.le]
  refine ⟨fun hlo hhi => ?digit, fun hoff => ?status⟩
  case digit =>
    have hdigits : digitRangeOf Config.params f = false := by rwa [hr] at hrng
    exact ⟨_, parseResponse_flipBit7 hlen hok h hlo (by omega), digitRangeOf_flipBit7 hdigits h hlo hhi⟩
  case status =>
    subst hoff
    rw [parseResponse_flipBit7 hlen hok h (by decide) (by decide), decodeReading_flipBit7_status h, hr]

end Sys2Proof.Machine
end

section
/-! SUPPORT. The encoder and the decoder are inverse to each other (R45, R47). -/

namespace Sys2Proof

/-- Settles O4: the fields of an operation's word are all that the decoder looks at. -/
theorem decodeOfEncodeIsTheOperation : Obligations.DecodeOfEncodeIsTheOperation :=
  fun i _ => decode_encode i

/-- Settles O5: each operation has exactly one word. -/
theorem encodeOfDecodeIsTheWord : Obligations.EncodeOfDecodeIsTheWord :=
  fun _ _ h => (decode_ok_iff_eq_encode.1 h).symm

/-- Settles O6: each legal word is the encoding of its operation, and an illegal one fails the check it is named for. -/
theorem sampleWordsDecode : Obligations.SampleWordsDecode :=
  ⟨decode_encode .nop, decode_encode (.build 0x01 0x42 0x3F), decode_encode .txpop, decode_encode (.rxpush 0x35),
    decode_encode .parse, decode_encode .rxclr, decode_encode .txclr, rfl, rfl, rfl⟩

end Sys2Proof
end

section
/-! SUPPORT. What a step does with each event presented (R38, R171). -/

namespace Sys2Proof.Machine

theorem step_of_nothing {s : State} (hp : s.pending = []) : step s = .next s := by
  simp only [step, hp, takeNothing]

/-- Settles O11: a legal word presented is decoded and taken from what is pending. -/
theorem stepRunsTheDecodedOperation : Obligations.StepRunsTheDecodedOperation :=
  fun _ _ _ _ hp hd => step_of_decoded hp (Event.decoded_command_of_ok hd)

/-- Settles O12: by the event presented; every operation has a next state. -/
theorem everyStepHasASuccessor : Obligations.EveryStepHasASuccessor := by
  intro s
  cases hp : s.pending with
  | nil => exact ⟨_, step_of_nothing hp⟩
  | cons e rest =>
    cases e with
    | reset => exact ⟨_, step_of_reset hp⟩
    | command w =>
      cases hd : decode w with
      | error r => exact ⟨_, step_of_illegal hp hd⟩
      | ok i =>
        rw [step_of_decoded hp (Event.decoded_command_of_ok hd)]
        exact exec_total i _

end Sys2Proof.Machine
end

section
/-! SUPPORT. The invariant of R27: it holds at reset and every step keeps it. -/

namespace Sys2Proof.Machine

/-- Settles O47: no frame is pending, no byte has been received and no reading accepted. -/
theorem invariantHoldsAtReset : Obligations.InvariantHoldsAtReset where
  txbuf_wf := Memory.nil_wf 5
  rxbuf_wf := Memory.nil_wf 10
  txptr_le := by decide
  rxcnt_le := by decide
  result_le := by decide
  reading := fun hok => absurd hok (by decide)
  rx_written := fun i hi => absurd hi (Nat.not_lt_zero i)
  tx_built := fun hp => absurd hp (by decide)

/-- The invariant does not speak of `txwire`, `resets`, `pushes` and `pending`, the fields a reset event keeps. -/
theorem State.inv_resetEvent (s : State) : s.resetEvent.Inv := { invariantHoldsAtReset with }

section
variable {s t : State}

theorem State.Inv.withPending (hs : s.Inv) (rest : List Event) : (s.withPending rest).Inv := { hs with }

theorem State.Inv.illegalCommand (hs : s.Inv) : s.illegalCommand.Inv := { hs with }

/-! ## The transmit side -/

theorem execBuild_inv {a c p : Byte} (hs : s.Inv) (h : execBuild a c p s = .next t) : t.Inv := by
  obtain rfl := execBuild_next h
  have hbuilt (i : Nat) (hi : i < 5) : (s.txbuf.storeList 0 (buildCommand Config.params a c p)).byteAt i =
      (buildCommand Config.params a c p)[i]? :=
    (Memory.byteAt_storeList ..).trans (if_pos (by rw [buildCommand_length]; omega))
  exact { hs with
    txbuf_wf := Memory.storeList_wf _ hs.txbuf_wf (Nat.le_refl 5)
    txptr_le := Nat.zero_le 5
    tx_built := fun _ => ⟨a, c, p, hbuilt⟩ }

/-- A frame still pending after TXPOP was pending before it. -/
theorem execTxpop_inv (hs : s.Inv) (h : execTxpop s = .next t) : t.Inv := by
  obtain ⟨hp, rfl⟩ | ⟨-, rfl⟩ := execTxpop_next h
  · exact { hs with
      txptr_le := (toNat_txptr_add_one hp).trans_le hp
      tx_built := fun _ => hs.tx_built hp }
  · exact hs

theorem execTxclr_inv (hs : s.Inv) (h : execTxclr s = .next t) : t.Inv := by
  obtain rfl := execTxclr_next h
  exact { hs with
    txptr_le := Nat.le_refl 5
    tx_built := fun hp => absurd hp (Nat.lt_irrefl 5) }

/-! ## The receive side -/

/-- RXPUSH with room writes the one byte by which the bytes received grow. -/
theorem execRxpush_inv {b : Byte} (hs : s.Inv) (h : execRxpush b s = .next t) : t.Inv := by
  obtain ⟨hc, rfl⟩ | ⟨-, rfl⟩ := execRxpush_next h
  · have hcnt := toNat_rxcnt_add_one hc
    refine { hs with
      rxbuf_wf := Memory.store_wf b hs.rxbuf_wf hc
      rxcnt_le := hcnt.trans_le hc
      rx_written := fun i hi => ?written }
    case written =>
      have hle : i ≤ s.rxcnt.toNat := Nat.le_of_lt_succ (hi.trans_eq hcnt)
      obtain hlt | rfl := hle.lt_or_eq
      · rw [Memory.byteAt_store_other _ _ hlt.ne]
        exact hs.rx_written i hlt
      · rw [Memory.byteAt_store_same, Option.isSome_some]
  · exact { hs with }

theorem execRxclr_inv (hs : s.Inv) (h : execRxclr s = .next t) : t.Inv := by
  obtain rfl := execRxclr_next h
  exact { hs with
    rxcnt_le := Nat.zero_le 10
    result_le := Nat.zero_le 4
    reading := fun (hok : (0 : BitVec 3) = 1) => absurd hok (by decide)
    rx_written := fun i hi => absurd hi (Nat.not_lt_zero i) }

/-! ## The reading registers -/

theorem State.Inv.reject (hs : s.Inv) {code : BitVec 3} (hle : code.toNat ≤ 4) (hne : code ≠ 1) :
    (s.reject code).Inv :=
  { hs with
    result_le := hle
    reading := fun hok => absurd hok hne }

/-- A frame of digits gives a magnitude in range, and `SVAL` is that magnitude with the sign. -/
theorem State.Inv.accept_decodeReading (hs : s.Inv) (k : Nat) (f : List Byte) :
    (s.accept (decodeReading Config.params k f)).Inv := by
  refine { hs with
    result_le := (by decide : resultOk.toNat ≤ 4)
    reading := fun _ hrng => ?reading }
  case reading =>
    obtain ⟨-, hle, hsval⟩ := decodeReading_mag_sval_of_digits hrng k
    exact ⟨hle, hsval.trans (signed_toNat _ _)⟩

theorem execParse_inv (hs : s.Inv) (h : execParse s = .next t) : t.Inv := by
  obtain ⟨-, rfl⟩ | ⟨-, -, rfl⟩ | ⟨-, -, -, rfl⟩ | ⟨-, -, -, rfl⟩ := execParse_next h
  · exact hs.reject (by decide) (by decide)
  · exact hs.reject (by decide) (by decide)
  · exact hs.reject (by decide) (by decide)
  · exact hs.accept_decodeReading _ _

/-! ## Every operation and every step -/

theorem exec_inv {i : Instr} (hs : s.Inv) (h : exec i s = .next t) : t.Inv := by
  cases i with
  | nop => rwa [execNop_next h]
  | build a c p => exact execBuild_inv hs h
  | txpop => exact execTxpop_inv hs h
  | rxpush b => exact execRxpush_inv hs h
  | parse => exact execParse_inv hs h
  | rxclr => exact execRxclr_inv hs h
  | txclr => exact execTxclr_inv hs h

end

/-- Settles O48: by the cases of a step and of an operation. -/
theorem everyStepKeepsTheInvariant : Obligations.EveryStepKeepsTheInvariant := by
  intro s t hs h
  obtain ⟨-, rfl⟩ | ⟨rest, -, rfl⟩ | ⟨w, e, rest, -, -, rfl⟩ | ⟨w, i, rest, -, -, hx⟩ := step_next h
  · exact hs
  · exact State.inv_resetEvent _
  · exact (hs.withPending rest).illegalCommand
  · exact exec_inv (hs.withPending rest) hx

end Sys2Proof.Machine
end

section
/-! SUPPORT. Unwritten buffer bytes (R26, R160): a reset event leaves nothing else, and no step uses one (D23). -/

namespace Sys2Proof.Machine

/-- Settles O10: both buffers are empty after the reset event, whose number is one more. -/
theorem resetEventForgetsTheBuffers : Obligations.ResetEventForgetsTheBuffers :=
  fun _ _ hp => ⟨_, step_of_reset hp, fun _ => ⟨rfl, rfl, rfl, rfl⟩⟩

/-- The state with the unwritten bytes drawn as after the reset event number `n`. -/
def State.withResets (s : State) (n : Nat) : State := { s with resets := n }

theorem State.sameButUnwritten_iff {s t : State} : s.sameButUnwritten t ↔ ∃ n, t = s.withResets n := by
  refine ⟨fun h => ⟨t.resets, h⟩, ?_⟩
  rintro ⟨n, rfl⟩
  rfl

/-! ## The bytes that TXPOP and PARSE read -/

theorem State.txByte_withResets {s : State} {off : Nat} (h : (s.txbuf.byteAt off).isSome) (n : Nat) :
    (s.withResets n).txByte off = s.txByte off := by
  obtain ⟨b, hb⟩ := Option.isSome_iff_exists.1 h
  exact (txByte_written (s := s.withResets n) hb).trans (txByte_written hb).symm

theorem State.rxByte_withResets {s : State} {off : Nat} (h : (s.rxbuf.byteAt off).isSome) (n : Nat) :
    (s.withResets n).rxByte off = s.rxByte off := by
  obtain ⟨b, hb⟩ := Option.isSome_iff_exists.1 h
  exact (rxByte_written (s := s.withResets n) hb).trans (rxByte_written hb).symm

/-- The bytes received have been written (R27). -/
theorem State.Inv.rxBytes_withResets {s : State} (hs : s.Inv) (n : Nat) : (s.withResets n).rxBytes = s.rxBytes :=
  List.map_congr_left fun off hoff => rxByte_withResets (hs.rx_written off (List.mem_range.1 hoff)) n

theorem State.record_withResets (s : State) (n : Nat) (o : ParseOutcome) :
    (s.withResets n).record o = (s.record o).withResets n := by
  cases o <;> rfl

/-! ## Another draw through an operation and a step -/

section
variable {s t : State} (hs : s.Inv)
include hs

theorem execTxpop_withResets (h : execTxpop s = .next t) (n : Nat) :
    execTxpop (s.withResets n) = .next (t.withResets n) := by
  obtain ⟨hp, rfl⟩ | ⟨hp, rfl⟩ := execTxpop_next h
  · have hbyte : (s.withResets n).txByte (s.withResets n).txptr.toNat = s.txByte s.txptr.toNat :=
      State.txByte_withResets (hs.isSome_byteAt_txptr hp) n
    rw [execTxpop_of_lt (s := s.withResets n) hp, hbyte]
    rfl
  · exact execTxpop_of_le hp

theorem execParse_withResets (h : execParse s = .next t) (n : Nat) :
    execParse (s.withResets n) = .next (t.withResets n) := by
  rw [execParse_eq_record] at h ⊢
  obtain rfl := Host.Outcome.next.inj h
  rw [hs.rxBytes_withResets, ← State.record_withResets]
  rfl

theorem exec_withResets {i : Instr} (h : exec i s = .next t) (n : Nat) :
    exec i (s.withResets n) = .next (t.withResets n) := by
  cases i with
  | nop => obtain rfl := execNop_next h; rfl
  | build a c p => obtain rfl := execBuild_next h; rfl
  | txpop => exact execTxpop_withResets hs h n
  | rxpush b =>
    obtain ⟨hc, rfl⟩ | ⟨hc, rfl⟩ := execRxpush_next h
    · exact execRxpush_of_lt hc
    · exact execRxpush_of_le hc
  | parse => exact execParse_withResets hs h n
  | rxclr => obtain rfl := execRxclr_next h; rfl
  | txclr => obtain rfl := execTxclr_next h; rfl

theorem step_withResets (h : step s = .next t) (n : Nat) :
    ∃ m, step (s.withResets n) = .next (t.withResets m) := by
  obtain ⟨hp, rfl⟩ | ⟨rest, hp, rfl⟩ | ⟨w, e, rest, hp, hd, rfl⟩ | ⟨w, i, rest, hp, hd, hx⟩ := step_next h
  · exact ⟨n, step_of_nothing hp⟩
  · exact ⟨n + 1, step_of_reset hp⟩
  · exact ⟨n, step_of_illegal hp hd⟩
  · exact ⟨n, (step_of_decoded (s := s.withResets n) hp (Event.decoded_command_of_ok hd)).trans
      (exec_withResets (hs.withPending rest) hx n)⟩

end

/-- Settles O53: a step with another draw leads to the same state with another draw, since the bytes it reads are
written. -/
theorem unwrittenBytesAreNeverUsed : Obligations.UnwrittenBytesAreNeverUsed := by
  intro s s' t t' hs hss h h'
  obtain ⟨n, rfl⟩ := State.sameButUnwritten_iff.1 hss
  obtain ⟨m, hm⟩ := step_withResets hs h n
  exact State.sameButUnwritten_iff.2 ⟨m, Host.Outcome.next.inj (h'.symm.trans hm)⟩

end Sys2Proof.Machine
end

section
/-! SUPPORT. PARSE as `parse_response` (R89), and what the draws of R103 reach. -/

namespace Sys2Proof.Machine

/-- Settles O32: the checks of PARSE and of `parse_response` are made of the same bytes. -/
theorem parseRefinesParseResponse : Obligations.ParseRefinesParseResponse := execParse_eq_record

/-- The state with the draws of R103 taken at the index `k`. -/
def State.withPushes (s : State) (k : Nat) : State := { s with pushes := k }

theorem State.record_withPushes (s : State) (k : Nat) (o : ParseOutcome) :
    (s.withPushes k).record o = (s.record o).withPushes k := by
  cases o <;> rfl

/-- The index of the draws has no part in a rejection, and an acceptance decodes the same bytes at every index. -/
theorem parseResponse_eq_or_decodeReading (bs : List Byte) :
    (∃ o, ∀ k, parseResponse Config.params k bs = o) ∨
    ∀ k, parseResponse Config.params k bs = .ok (decodeReading Config.params k (bs.take 10)) := by
  obtain ⟨hlen, -⟩ | ⟨hlen, hh, -⟩ | ⟨hlen, hh, hk, -⟩ | ⟨hlen, hh, hk, -⟩ := parseResponse_cases 0 bs
  · exact .inl ⟨_, fun _ => parseResponse_of_short hlen⟩
  · exact .inl ⟨_, fun _ => parseResponse_of_badHeader hlen hh⟩
  · exact .inl ⟨_, fun _ => parseResponse_of_badChecksum hlen hh hk⟩
  · exact .inr fun _ => parseResponse_of_valid hlen hh hk

/-- Settles O42: a rejection is the same at every index, and so is the reading of a frame of digits; of another
reading, `MAG` and `SVAL` alone are drawn. -/
theorem drawsReachOnlyTheUnspecifiedValues : Obligations.DrawsReachOnlyTheUnspecifiedValues := by
  intro s k
  refine ⟨_, _, execParse_eq_record s, execParse_eq_record (s.withPushes k), ?_⟩
  have hbytes : (s.withPushes k).rxBytes = s.rxBytes := State.rxBytes_congr rfl rfl rfl
  rw [hbytes, State.record_withPushes]
  obtain ⟨o, ho⟩ | hok := parseResponse_eq_or_decodeReading s.rxBytes
  · rw [ho, ho]
    exact ⟨rfl, fun _ => ⟨rfl, rfl⟩⟩
  · rw [hok, hok]
    refine ⟨rfl, fun hno => ?digits⟩
    case digits =>
      have hrng : digitRangeOf Config.params (s.rxBytes.take 10) = false := hno.resolve_left (absurd rfl)
      rw [decodeReading_of_digits hrng, decodeReading_of_digits hrng]
      exact ⟨rfl, rfl⟩

end Sys2Proof.Machine
end

section
/-! SUPPORT. The writers of each item of R10. -/

namespace Sys2Proof.Machine

/-- Settles O49: each operation's answer names the items it writes. -/
theorem itemsChangeOnlyByTheirWriters : Obligations.ItemsChangeOnlyByTheirWriters := by
  intro i s t h
  cases i with
  | nop => obtain rfl := execNop_next h; simp
  | build a c p => obtain rfl := execBuild_next h; simp
  | txpop => obtain ⟨-, rfl⟩ | ⟨-, rfl⟩ := execTxpop_next h <;> simp
  | rxpush b => obtain ⟨-, rfl⟩ | ⟨-, rfl⟩ := execRxpush_next h <;> simp
  | parse =>
    obtain ⟨code, -, rfl⟩ | rfl := execParse_reject_or_accept h
    · simp
    · simp [resultOk]
  | rxclr => obtain rfl := execRxclr_next h; simp
  | txclr => obtain rfl := execTxclr_next h; simp

end Sys2Proof.Machine
end

section
/-! SUPPORT. Runs of several steps: the receive path (R86 to R89) and the host's stop sequence (R134). -/

namespace Sys2Proof.Machine

/-- The word of an operation, presented next, is that operation executed. -/
theorem step_of_pending_encode {i : Instr} {s : State} {rest : List Event}
    (hp : s.pending = .command (encode i) :: rest) :
    ∃ t, step s = .next t ∧ exec i (s.withPending rest) = .next t := by
  obtain ⟨t, ht⟩ := exec_total i (s.withPending rest)
  exact ⟨t, (step_of_decoded hp (Event.decoded_command_encode i)).trans ht, ht⟩

/-- Settles O54: RXCLR empties the receive side, the bytes are received through any events, and PARSE judges them and
leaves them. -/
theorem receivedBytesAreJudgedInOrder : Obligations.ReceivedBytesAreJudgedInOrder := by
  intro s es rest hp hes bs
  obtain ⟨u, hrxclr, hu⟩ := step_of_pending_encode hp
  obtain ⟨v, hv, hpv, hrcv⟩ := run_hasReceived es hes (exec_sameTx rfl hu).pending (execRxclr_hasReceived hu)
  obtain ⟨t, hparse, ht⟩ := step_of_pending_encode hpv
  have hrcv' : (v.withPending rest).HasReceived bs := hrcv.withPending rest
  have hrcvt : t.HasReceived bs := hrcv'.of_sameRx (execParse_sameRx ht)
  have hcnt : t.rxcnt.toNat = min bs.length 10 := hrcvt.toNat_rxcnt.trans (Nat.min_comm ..)
  refine ⟨t, ?run, execParse_shows hrcv' ht, hrcvt.rxOvf, hcnt, hcnt ▸ hrcvt.rxBytes, (execParse_sameRx ht).pending⟩
  case run =>
    calc core.run (es.length + 1 + 1) s
      _ = core.run 1 v := run_add_of_run ((run_succ_of_step (M := core) hrxclr _).trans hv) 1
      _ = .next t := run_succ_of_step (M := core) hparse 0

theorem asmEvents_stopSequence :
    asmEvents stopSequence = [.command (encode .txclr), .command (encode .rxclr)] := rfl

/-- Settles O56: TXCLR drops a pending frame, RXCLR empties the receive side, and neither emits. -/
theorem stopSequenceEmptiesBothSides : Obligations.StopSequenceEmptiesBothSides := by
  intro s rest hp
  rw [asmEvents_stopSequence] at hp
  obtain ⟨u, htxclr, hu⟩ := step_of_pending_encode hp
  have hpu : u.pending = .command (encode .rxclr) :: rest := by rw [execTxclr_next hu]; rfl
  obtain ⟨t, hrxclr, ht⟩ := step_of_pending_encode hpu
  refine ⟨t, (run_succ_of_step (M := core) htxclr 1).trans (run_succ_of_step (M := core) hrxclr 0), ?_⟩
  obtain rfl := execRxclr_next ht
  obtain rfl := execTxclr_next hu
  exact ⟨rfl, rfl, rfl, rfl, rfl, rfl, rfl⟩

end Sys2Proof.Machine
end
